-- ==== Sys2Proof/Word.lean ====
section
/-!
DEFINITION. The bit vectors of the engine: 00_scope.md R12 fixes every width used here.
-/

namespace Sys2Proof

/-- A general register, a timer, a memory byte (R12, R20, R27, R50): 8 bits. -/
abbrev Byte := BitVec 8

/-- The program counter, the index register, a stack entry, an instruction word (R12): 16 bits. -/
abbrev Word := BitVec 16

/-- A register number: the X or Y field of a word (R81). -/
abbrev Reg := BitVec 4

/-- A 4-bit immediate: the N field of a word (R81), or a key number (R250). -/
abbrev Nibble := BitVec 4

/-- A 12-bit address: the NNN field of a word (R81). -/
abbrev Addr12 := BitVec 12

end Sys2Proof
end

