-- ==== Sys2Proof/Config.lean ====
section
/-!
DEFINITION. The configuration record of 00_scope.md R10 and R11, its defaults and its legal values
(70_reset_and_hazards.md R300), and the free values: constants without a body, of which no proof
can know a value.
-/

namespace Sys2Proof

/-- `OPSET`: which instructions the decoder accepts (R8). -/
inductive OpSet where
  | full
  | reference6
deriving DecidableEq, Repr

/-- `CLASS0_MATCH`: what selects CLS and RET in class 0x0 (R87). -/
inductive Class0Match where
  | lowByte
  | fullWord
deriving DecidableEq, Repr

/-- `CLASS59_MATCH`: whether 5XYn and 9XYn need n = 0 (R88). -/
inductive Class59Match where
  | ignoreN
  | requireZero
deriving DecidableEq, Repr

/-- `SHIFT_SRC`: the operand of 8XY6 and 8XYE (R175, R177). -/
inductive ShiftSrc where
  | vy
  | vx
deriving DecidableEq, Repr

/-- `JUMP_OFFSET_REG`: the base register of BNNN (R134). -/
inductive JumpOffsetReg where
  | v0
  | vx
deriving DecidableEq, Repr

/-- The configuration parameters of R11. The engine is parameterised over them at construction (R10)
and nothing changes them afterwards. `scale` is presentation only: nothing reads it. -/
structure Config where
  memSize        : Nat
  programStart   : Nat
  dispW          : Nat
  dispH          : Nat
  spriteWidth    : Nat
  scale          : Nat
  stackDepth     : Nat
  opset          : OpSet
  class0Match    : Class0Match
  class59Match   : Class59Match
  shiftSrc       : ShiftSrc
  logicResetsVF  : Bool
  ldiIncrementsI : Bool
  jumpOffsetReg  : JumpOffsetReg
  fontBase       : Nat
  fontPreload    : Bool
deriving DecidableEq, Repr

/-- The defaults of R11. `scale` has no default there ("any"): 1, which nothing reads (log entry 2). -/
def Config.defaults : Config where
  memSize        := 4096
  programStart   := 0x200
  dispW          := 64
  dispH          := 32
  spriteWidth    := 8
  scale          := 1
  stackDepth     := 16
  opset          := .full
  class0Match    := .lowByte
  class59Match   := .ignoreN
  shiftSrc       := .vy
  logicResetsVF  := true
  ldiIncrementsI := true
  jumpOffsetReg  := .v0
  fontBase       := 0x050
  fontPreload    := false

/-- The configuration check of R300: true for the legal configurations of R11. The enumerated
parameters cannot be outside their values, since their types hold nothing else. -/
def Config.valid (c : Config) : Bool :=
  decide (1 ≤ c.memSize) && decide (c.memSize ≤ 65536)
    && decide (c.programStart < c.memSize)
    && decide (1 ≤ c.dispW) && decide (1 ≤ c.dispH)
    && decide (c.spriteWidth = 8)
    && decide (1 ≤ c.stackDepth)
    && (!c.fontPreload || decide (c.fontBase + 80 ≤ c.memSize))

/-! The draws of R37, free values (I10, I11, I12; log entry 6), one for each Step by its number. -/

/-- `Keys`: 16 bits, bit k set when key k is held (R37). -/
opaque Config.freeKeys : Nat → BitVec 16

/-- `KeyEvent`: none or a key number (R37). -/
opaque Config.freeKeyEvent : Nat → Option Nibble

/-- `Rand`: 8 bits (R37). -/
opaque Config.freeRand : Nat → Byte

/-! The state after a fatal fault, free values (R119, R271, I5; log entry 5). -/

/-- Each general register after a fatal fault, by fault number and register number. -/
opaque Config.faultV : Nat → Nat → Byte

/-- I after a fatal fault. -/
opaque Config.faultI : Nat → Word

/-- PC after a fatal fault. -/
opaque Config.faultPc : Nat → Word

/-- The call stack after a fatal fault, before it is cut to `STACK_DEPTH` entries. -/
opaque Config.faultStack : Nat → List Word

/-- The delay timer after a fatal fault. -/
opaque Config.faultDt : Nat → Byte

/-- The sound timer after a fatal fault. -/
opaque Config.faultSt : Nat → Byte

/-- The byte at each address after a fatal fault. -/
opaque Config.faultMem : Nat → Nat → Byte

/-- The pixel at each row and column after a fatal fault. -/
opaque Config.faultPixel : Nat → Nat → Nat → Bool

/-- The dirty flag after a fatal fault. -/
opaque Config.faultDirty : Nat → Bool

/-- The loaded flag after a fatal fault. -/
opaque Config.faultLoaded : Nat → Bool

/-- How far above `PROGRAM_START - 1` the end marker stands after a fatal fault, before the range of
R32 is imposed. -/
opaque Config.faultEnd : Nat → Nat

end Sys2Proof
end

