-- ==== Sys2Proof/Syntax.lean ====
section
/-!
DEFINITION. The instructions: one constructor per row of spec/opcode_table.json (30_encoding.md R86).
-/

namespace Sys2Proof

/-- A decoded instruction. Each constructor carries the fields its rule reads (30_encoding.md R84);
the fields a word's class ignores (R87, R88) are not kept. -/
inductive Instr where
  /-- CLS, `00E0` (R221). -/
  | cls
  /-- RET, `00EE` (R133). -/
  | ret
  /-- JP addr, `1NNN` (R131). -/
  | jp (nnn : Addr12)
  /-- CALL addr, `2NNN` (R132). -/
  | call (nnn : Addr12)
  /-- SE Vx, byte, `3XNN` (R151). -/
  | seByte (x : Reg) (nn : Byte)
  /-- SNE Vx, byte, `4XNN` (R152). -/
  | sneByte (x : Reg) (nn : Byte)
  /-- SE Vx, Vy, `5XY0` (R153). -/
  | seReg (x y : Reg)
  /-- LD Vx, byte, `6XNN` (R167). -/
  | ldByte (x : Reg) (nn : Byte)
  /-- ADD Vx, byte, `7XNN` (R168). -/
  | addByte (x : Reg) (nn : Byte)
  /-- LD Vx, Vy, `8XY0` (R169). -/
  | ldReg (x y : Reg)
  /-- OR Vx, Vy, `8XY1` (R170). -/
  | orReg (x y : Reg)
  /-- AND Vx, Vy, `8XY2` (R171). -/
  | andReg (x y : Reg)
  /-- XOR Vx, Vy, `8XY3` (R172). -/
  | xorReg (x y : Reg)
  /-- ADD Vx, Vy, `8XY4` (R173). -/
  | addReg (x y : Reg)
  /-- SUB Vx, Vy, `8XY5` (R174). -/
  | subReg (x y : Reg)
  /-- SHR Vx, Vy, `8XY6` (R175). -/
  | shr (x y : Reg)
  /-- SUBN Vx, Vy, `8XY7` (R176). -/
  | subn (x y : Reg)
  /-- SHL Vx, Vy, `8XYE` (R177). -/
  | shl (x y : Reg)
  /-- SNE Vx, Vy, `9XY0` (R154). -/
  | sneReg (x y : Reg)
  /-- LD I, addr, `ANNN` (R201). -/
  | ldI (nnn : Addr12)
  /-- JP V0, addr, `BNNN` (R134). -/
  | jpV0 (nnn : Addr12)
  /-- RND Vx, byte, `CXNN` (R178). -/
  | rnd (x : Reg) (nn : Byte)
  /-- DRW Vx, Vy, nibble, `DXYN` (R225). -/
  | drw (x y : Reg) (n : Nibble)
  /-- SKP Vx, `EX9E` (R255). -/
  | skp (x : Reg)
  /-- SKNP Vx, `EXA1` (R256). -/
  | sknp (x : Reg)
  /-- LD Vx, DT, `FX07` (R251). -/
  | ldVxDt (x : Reg)
  /-- LD Vx, K, `FX0A` (R254). -/
  | ldVxK (x : Reg)
  /-- LD DT, Vx, `FX15` (R252). -/
  | ldDtVx (x : Reg)
  /-- LD ST, Vx, `FX18` (R253). -/
  | ldStVx (x : Reg)
  /-- ADD I, Vx, `FX1E` (R202). -/
  | addI (x : Reg)
  /-- LD F, Vx, `FX29` (R203). -/
  | ldF (x : Reg)
  /-- LD B, Vx, `FX33` (R205). -/
  | ldB (x : Reg)
  /-- LD [I], Vx, `FX55` (R206). -/
  | storeRegs (x : Reg)
  /-- LD Vx, [I], `FX65` (R207). -/
  | loadRegs (x : Reg)
  /-- SYS addr, `0NNN`: the class-0x0 words that are neither CLS nor RET, unknown opcodes (R130). -/
  | sys (nnn : Addr12)
deriving DecidableEq, Repr

end Sys2Proof
end

