-- ==== Sys2Proof/WellFormed.lean ====
section
/-!
DEFINITION. Which instructions exist under a configuration: the profile of 00_scope.md R8 and
30_encoding.md R90, and the class-0x0 words that are SYS (R87, 41_control.md R130).
-/

namespace Sys2Proof

/-- The low byte that selects CLS in class 0x0 (R86). -/
abbrev clsByte : Byte := 0xE0#8

/-- The low byte that selects RET in class 0x0 (R86). -/
abbrev retByte : Byte := 0xEE#8

/-- Does the class-0x0 word with these low 12 bits select the row whose low byte is `key`? R87:
with `LOW_BYTE` the low byte decides alone, with `FULL_WORD` bits 11 to 8 must be zero as well. -/
def class0Selects (m : Class0Match) (key : Byte) (nnn : Addr12) : Bool :=
  match m with
  | .lowByte  => nnn.extractLsb' 0 8 == key
  | .fullWord => nnn == (0#4 ++ key : BitVec (4 + 8))

/-- Is the instruction in the profile (R8, R90)? `REFERENCE6` keeps the six instructions of the
reference. SYS names unknown opcodes in both profiles (R130). -/
def OpSet.admits (o : OpSet) (i : Instr) : Bool :=
  match o with
  | .full => true
  | .reference6 =>
    match i with
    | .cls | .jp _ | .ldByte _ _ | .addByte _ _ | .ldI _ | .drw _ _ _ => true
    | .sys _ => true
    | .ret | .call _ | .seByte _ _ | .sneByte _ _ | .seReg _ _ => false
    | .ldReg _ _ | .orReg _ _ | .andReg _ _ | .xorReg _ _ | .addReg _ _ => false
    | .subReg _ _ | .shr _ _ | .subn _ _ | .shl _ _ | .sneReg _ _ => false
    | .jpV0 _ | .rnd _ _ | .skp _ | .sknp _ | .ldVxDt _ | .ldVxK _ => false
    | .ldDtVx _ | .ldStVx _ | .addI _ | .ldF _ | .ldB _ => false
    | .storeRegs _ | .loadRegs _ => false

/-- A SYS whose twelve bits select CLS or RET is no SYS: its word is theirs (R130, R87). -/
def Instr.sysDistinct (m : Class0Match) (i : Instr) : Bool :=
  match i with
  | .sys nnn => !(class0Selects m clsByte nnn || class0Selects m retByte nnn)
  | _ => true

/-- The instructions that some word decodes to under the configuration. -/
def Instr.wellFormed (c : Config) (i : Instr) : Bool :=
  c.opset.admits i && i.sysDistinct c.class0Match

end Sys2Proof
end

