-- ==== Sys2Proof/Decode.lean ====
section
/-!
DEFINITION. The fields of a word, the decoder, the encoder, and the rows of the opcode table
(30_encoding.md R80 to R92).
-/

namespace Sys2Proof

/-- The decoded record of R81 and R34: fixed, overlapping views of one word. -/
structure Fields where
  cls : BitVec 4
  x   : Reg
  y   : Reg
  n   : Nibble
  nn  : Byte
  nnn : Addr12
deriving DecidableEq, Repr

/-- R81's table of fields. -/
def fieldsOf (w : Word) : Fields where
  cls := w.extractLsb' 12 4
  x   := w.extractLsb' 8 4
  y   := w.extractLsb' 4 4
  n   := w.extractLsb' 0 4
  nn  := w.extractLsb' 0 8
  nnn := w.extractLsb' 0 12

/-- A word from the layout `class ++ NNN` (R82). -/
def wordNNN (c : BitVec 4) (nnn : Addr12) : Word := (c ++ nnn : BitVec (4 + 12))

/-- A word from the layout `class ++ X ++ NN` (R82). -/
def wordXNN (c : BitVec 4) (x : Reg) (nn : Byte) : Word := (c ++ x ++ nn : BitVec (4 + 4 + 8))

/-- A word from the layout `class ++ X ++ Y ++ N` (R82). -/
def wordXYN (c : BitVec 4) (x y : Reg) (n : Nibble) : Word :=
  (c ++ x ++ y ++ n : BitVec (4 + 4 + 4 + 4))

/-- Why a word decodes to no instruction (R89, R91). -/
inductive Unknown where
  /-- Class 0x5 or 0x9 with N nonzero under `CLASS59_MATCH = REQUIRE_ZERO` (R88). -/
  | nibbleNotZero
  /-- Class 0x8 with N in 0x8 to 0xD or 0xF (R91). -/
  | class8
  /-- Class 0xE with NN not 0x9E or 0xA1 (R91). -/
  | classE
  /-- Class 0xF with NN outside the nine sub-opcodes (R91). -/
  | classF
  /-- An instruction of profile FULL that REFERENCE6 does not accept (R90). -/
  | notInProfile
  /-- Fewer than two bytes: no word at all (R80). -/
  | truncated
deriving DecidableEq, Repr

/-- Class 0x0 (R87): CLS, RET, or SYS for every other word (R130). -/
def decodeClass0 (c : Config) (nnn : Addr12) : Except Unknown Instr :=
  if class0Selects c.class0Match clsByte nnn then .ok .cls
  else if class0Selects c.class0Match retByte nnn then .ok .ret
  else .ok (.sys nnn)

/-- Classes 0x5 and 0x9 (R88): `i` unless the configuration requires N = 0 and N is not 0. -/
def decodeClass59 (c : Config) (n : Nibble) (i : Instr) : Except Unknown Instr :=
  match c.class59Match with
  | .ignoreN     => .ok i
  | .requireZero => if n = 0#4 then .ok i else .error .nibbleNotZero

/-- Class 0x8 (R86, R89): the low nibble selects. -/
def decodeClass8 (x y : Reg) (n : Nibble) : Except Unknown Instr :=
  match n.toNat with
  | 0x0 => .ok (.ldReg x y)
  | 0x1 => .ok (.orReg x y)
  | 0x2 => .ok (.andReg x y)
  | 0x3 => .ok (.xorReg x y)
  | 0x4 => .ok (.addReg x y)
  | 0x5 => .ok (.subReg x y)
  | 0x6 => .ok (.shr x y)
  | 0x7 => .ok (.subn x y)
  | 0xE => .ok (.shl x y)
  | _   => .error .class8

/-- Class 0xE (R86, R89): the low byte selects. -/
def decodeClassE (x : Reg) (nn : Byte) : Except Unknown Instr :=
  match nn.toNat with
  | 0x9E => .ok (.skp x)
  | 0xA1 => .ok (.sknp x)
  | _    => .error .classE

/-- Class 0xF (R86, R89): the low byte selects. -/
def decodeClassF (x : Reg) (nn : Byte) : Except Unknown Instr :=
  match nn.toNat with
  | 0x07 => .ok (.ldVxDt x)
  | 0x0A => .ok (.ldVxK x)
  | 0x15 => .ok (.ldDtVx x)
  | 0x18 => .ok (.ldStVx x)
  | 0x1E => .ok (.addI x)
  | 0x29 => .ok (.ldF x)
  | 0x33 => .ok (.ldB x)
  | 0x55 => .ok (.storeRegs x)
  | 0x65 => .ok (.loadRegs x)
  | _    => .error .classF

/-- The primary dispatch of R85 and R89, before the profile is applied. The last arm is class 0xF:
a class is a 4-bit number. -/
def decodeFull (c : Config) (w : Word) : Except Unknown Instr :=
  let f := fieldsOf w
  match f.cls.toNat with
  | 0x0 => decodeClass0 c f.nnn
  | 0x1 => .ok (.jp f.nnn)
  | 0x2 => .ok (.call f.nnn)
  | 0x3 => .ok (.seByte f.x f.nn)
  | 0x4 => .ok (.sneByte f.x f.nn)
  | 0x5 => decodeClass59 c f.n (.seReg f.x f.y)
  | 0x6 => .ok (.ldByte f.x f.nn)
  | 0x7 => .ok (.addByte f.x f.nn)
  | 0x8 => decodeClass8 f.x f.y f.n
  | 0x9 => decodeClass59 c f.n (.sneReg f.x f.y)
  | 0xA => .ok (.ldI f.nnn)
  | 0xB => .ok (.jpV0 f.nnn)
  | 0xC => .ok (.rnd f.x f.nn)
  | 0xD => .ok (.drw f.x f.y f.n)
  | 0xE => decodeClassE f.x f.nn
  | _   => decodeClassF f.x f.nn

/-- The decoder of R89. A word it answers `.error` or `.ok (.sys _)` for is an unknown opcode. -/
def decode (c : Config) (w : Word) : Except Unknown Instr :=
  match decodeFull c w with
  | .ok i => if c.opset.admits i then .ok i else .error .notInProfile
  | .error e => .error e

/-- R89's `UNKNOWN`: the words that no instruction takes, SYS's own among them (R130, log entry 9). -/
def isUnknown (c : Config) (w : Word) : Bool :=
  match decode c w with
  | .ok (.sys _) => true
  | .ok _ => false
  | .error _ => true

/-- The word of two bytes, the one at the lower address first (20_memory.md R58: big-endian). -/
def wordOfBytes (hi lo : Byte) : Word := (hi ++ lo : BitVec (8 + 8))

/-- The byte of a word at the lower address (R58). -/
def highByte (w : Word) : Byte := w.extractLsb' 8 8

/-- The byte of a word at the higher address (R58). -/
def lowByte (w : Word) : Byte := w.extractLsb' 0 8

/-- The two bytes of a word as memory holds them (R58, R80). -/
def bytesOfWord (w : Word) : List Byte := [highByte w, lowByte w]

/-- The decoder on a run of bytes: the instruction and the bytes after it (R80, R93). -/
def decodeBytes (c : Config) : List Byte → Except Unknown (Instr × List Byte)
  | hi :: lo :: rest =>
    match decode c (wordOfBytes hi lo) with
    | .ok i => .ok (i, rest)
    | .error e => .error e
  | [_] => .error .truncated
  | [] => .error .truncated

/-- The word of an instruction, from the patterns of R86. Ignored bits (R87, R88) are zero. -/
def encode : Instr → Word
  | .cls           => 0x00E0#16
  | .ret           => 0x00EE#16
  | .jp nnn        => wordNNN 0x1#4 nnn
  | .call nnn      => wordNNN 0x2#4 nnn
  | .seByte x nn   => wordXNN 0x3#4 x nn
  | .sneByte x nn  => wordXNN 0x4#4 x nn
  | .seReg x y     => wordXYN 0x5#4 x y 0x0#4
  | .ldByte x nn   => wordXNN 0x6#4 x nn
  | .addByte x nn  => wordXNN 0x7#4 x nn
  | .ldReg x y     => wordXYN 0x8#4 x y 0x0#4
  | .orReg x y     => wordXYN 0x8#4 x y 0x1#4
  | .andReg x y    => wordXYN 0x8#4 x y 0x2#4
  | .xorReg x y    => wordXYN 0x8#4 x y 0x3#4
  | .addReg x y    => wordXYN 0x8#4 x y 0x4#4
  | .subReg x y    => wordXYN 0x8#4 x y 0x5#4
  | .shr x y       => wordXYN 0x8#4 x y 0x6#4
  | .subn x y      => wordXYN 0x8#4 x y 0x7#4
  | .shl x y       => wordXYN 0x8#4 x y 0xE#4
  | .sneReg x y    => wordXYN 0x9#4 x y 0x0#4
  | .ldI nnn       => wordNNN 0xA#4 nnn
  | .jpV0 nnn      => wordNNN 0xB#4 nnn
  | .rnd x nn      => wordXNN 0xC#4 x nn
  | .drw x y n     => wordXYN 0xD#4 x y n
  | .skp x         => wordXNN 0xE#4 x 0x9E#8
  | .sknp x        => wordXNN 0xE#4 x 0xA1#8
  | .ldVxDt x      => wordXNN 0xF#4 x 0x07#8
  | .ldVxK x       => wordXNN 0xF#4 x 0x0A#8
  | .ldDtVx x      => wordXNN 0xF#4 x 0x15#8
  | .ldStVx x      => wordXNN 0xF#4 x 0x18#8
  | .addI x        => wordXNN 0xF#4 x 0x1E#8
  | .ldF x         => wordXNN 0xF#4 x 0x29#8
  | .ldB x         => wordXNN 0xF#4 x 0x33#8
  | .storeRegs x   => wordXNN 0xF#4 x 0x55#8
  | .loadRegs x    => wordXNN 0xF#4 x 0x65#8
  | .sys nnn       => wordNNN 0x0#4 nnn

/-- The mask and the match of the instruction's row in spec/opcode_table.json, under the default
`CLASS0_MATCH` and `CLASS59_MATCH` (R86). -/
def tableRow : Instr → Word × Word
  | .cls           => (0xF0FF#16, 0x00E0#16)
  | .ret           => (0xF0FF#16, 0x00EE#16)
  | .jp _          => (0xF000#16, 0x1000#16)
  | .call _        => (0xF000#16, 0x2000#16)
  | .seByte _ _    => (0xF000#16, 0x3000#16)
  | .sneByte _ _   => (0xF000#16, 0x4000#16)
  | .seReg _ _     => (0xF000#16, 0x5000#16)
  | .ldByte _ _    => (0xF000#16, 0x6000#16)
  | .addByte _ _   => (0xF000#16, 0x7000#16)
  | .ldReg _ _     => (0xF00F#16, 0x8000#16)
  | .orReg _ _     => (0xF00F#16, 0x8001#16)
  | .andReg _ _    => (0xF00F#16, 0x8002#16)
  | .xorReg _ _    => (0xF00F#16, 0x8003#16)
  | .addReg _ _    => (0xF00F#16, 0x8004#16)
  | .subReg _ _    => (0xF00F#16, 0x8005#16)
  | .shr _ _       => (0xF00F#16, 0x8006#16)
  | .subn _ _      => (0xF00F#16, 0x8007#16)
  | .shl _ _       => (0xF00F#16, 0x800E#16)
  | .sneReg _ _    => (0xF000#16, 0x9000#16)
  | .ldI _         => (0xF000#16, 0xA000#16)
  | .jpV0 _        => (0xF000#16, 0xB000#16)
  | .rnd _ _       => (0xF000#16, 0xC000#16)
  | .drw _ _ _     => (0xF000#16, 0xD000#16)
  | .skp _         => (0xF0FF#16, 0xE09E#16)
  | .sknp _        => (0xF0FF#16, 0xE0A1#16)
  | .ldVxDt _      => (0xF0FF#16, 0xF007#16)
  | .ldVxK _       => (0xF0FF#16, 0xF00A#16)
  | .ldDtVx _      => (0xF0FF#16, 0xF015#16)
  | .ldStVx _      => (0xF0FF#16, 0xF018#16)
  | .addI _        => (0xF0FF#16, 0xF01E#16)
  | .ldF _         => (0xF0FF#16, 0xF029#16)
  | .ldB _         => (0xF0FF#16, 0xF033#16)
  | .storeRegs _   => (0xF0FF#16, 0xF055#16)
  | .loadRegs _    => (0xF0FF#16, 0xF065#16)
  | .sys _         => (0xF000#16, 0x0000#16)

/-- The one word of a table row's bits: bits at or above `nbits` are zero. -/
def tableWord (nbits w : Nat) : Word := BitVec.ofNat 16 (w % 2 ^ nbits)

/-- The instruction the decoder reads, under the default configuration, from the bytes of a word
numbered as spec/opcode_table.json numbers it. -/
def decodeTableWord (nbits w : Nat) : Option Instr :=
  match decodeBytes Config.defaults (bytesOfWord (tableWord nbits w)) with
  | .ok (i, _) => some i
  | .error _ => none

end Sys2Proof
end

