-- ==== Sys2Proof/Machine/State.lean ====
section
/-!
DEFINITION. The state of the engine (10_state.md), the reasons a step can stop, and the state after
construction (R40). State is plain data.
-/

namespace Sys2Proof.Machine

/-- Memory (R35, R50): the cells whose byte is not what an unlisted address reads as, by strictly
rising address. `Memory.wf` in Ops.lean states the form. -/
abbrev Memory := List Host.Cell

/-- The display (R29): rows of booleans, addressed `[row][col]`, true for a lit pixel. -/
abbrev Grid := List (List Bool)

/-- A fatal fault with the information 60_exceptions.md R270 records: `pc` is the address of the
instruction (of the word, for a fetch), `addr` the first out-of-range byte address. All five are the
spec's own, and stopping there is safe: the spec leaves every other piece of state unspecified after
one (R119, R271; log entry 4). -/
inductive Fault where
  /-- Code 1, raised by instruction fetch at an address outside memory (R113, R115). Safe. -/
  | fetchOob (pc : Word) (addr : Nat)
  /-- Code 2, raised by DRW and by LD Vx, [I] reading outside memory (R226, R207). Safe. -/
  | memReadOob (pc : Word) (addr : Nat)
  /-- Code 3, raised by LD B, Vx and by LD [I], Vx writing outside memory (R205, R206). Safe. -/
  | memWriteOob (pc : Word) (addr : Nat)
  /-- Code 4, raised by CALL with `STACK_DEPTH` entries on the stack (R132). Safe. -/
  | stackOverflow (pc : Word)
  /-- Code 5, raised by RET with an empty stack (R133). Safe. -/
  | stackUnderflow (pc : Word)
deriving DecidableEq, Repr

/-- Why a step has no meaning. No step of this model ends so: every instruction has its meaning. -/
inductive Refusal where
  /-- Raised by an arm of `exec` that has no meaning yet. No arm is one. Safe. -/
  | notModelled (mnemonic : String)
deriving DecidableEq, Repr

/-- The three environment inputs of one Step (R37). -/
structure Draws where
  /-- Bit k is set when key k is held; read by SKP and SKNP. -/
  keys     : BitVec 16
  /-- No event, or the number of a key; read by LD Vx, K. -/
  keyEvent : Option Nibble
  /-- The random byte; read by RND. -/
  rand     : Byte
deriving DecidableEq, Repr

/-- A diagnostic event for an unknown opcode (R276): its address and the word. -/
structure Diag where
  pc   : Word
  word : Word
deriving DecidableEq, Repr

/-- The engine's state: the record at the head of 10_state.md, the configuration it was built with
(R10; log entry 1), and three fields of the model's own, the last three. -/
structure State where
  /-- The configuration record, fixed at construction (R10, R11). -/
  cfg       : Config
  /-- V0 to VF (R20). -/
  v         : Vector Byte 16
  /-- The index register I (R23). -/
  i         : Word
  /-- The program counter PC (R24). -/
  pc        : Word
  /-- The call stack, its top last (R25). -/
  stack     : List Word
  /-- The delay timer DT (R27). -/
  dt        : Byte
  /-- The sound timer ST (R28). -/
  st        : Byte
  /-- Memory (R35). -/
  mem       : Memory
  /-- The display (R29). -/
  disp      : Grid
  /-- The dirty flag (R30). -/
  dirty     : Bool
  /-- The loaded flag (R31). -/
  loaded    : Bool
  /-- The program end marker, an integer (R32). -/
  endMarker : Int
  /-- The fault record (R33). -/
  fault     : Option Fault
  /-- The model's own: draws the environment has handed over, the next Step's first (log entry 6). -/
  envDraws  : List Draws
  /-- The model's own: how many Steps have taken their draws (log entry 6). -/
  drawCount : Nat
  /-- The model's own: the diagnostics emitted so far, oldest first; an output (log entry 8). -/
  diags     : List Diag
deriving DecidableEq, Repr

/-- The table of R40 for a configuration, without the font (R52). -/
def State.zeroed (c : Config) : State where
  cfg       := c
  v         := Vector.replicate 16 0x00#8
  i         := 0x0000#16
  pc        := BitVec.ofNat 16 c.programStart
  stack     := []
  dt        := 0x00#8
  st        := 0x00#8
  mem       := []
  disp      := List.replicate c.dispH (List.replicate c.dispW false)
  dirty     := false
  loaded    := false
  endMarker := (c.programStart : Int) - 1
  fault     := none
  envDraws  := []
  drawCount := 0
  diags     := []

/-- The machine right after reset: Construct is the only reset (70_reset_and_hazards.md R302), here
with the default configuration (log entry 2). -/
def State.reset : State := State.zeroed Config.defaults

end Sys2Proof.Machine
end

