-- ==== Sys2Proof/Machine/Ops.lean ====
section
/-!
DEFINITION. The named operations over memory, display, registers and stack, the bounds check, the
fetch, the unknown-opcode no-op, and the fatal fault.
-/

namespace Sys2Proof.Machine

/-- What `exec` and `step` answer. -/
abbrev StepOutcome := Host.Outcome State Fault Refusal

/-! ### Memory (20_memory.md) -/

/-- What an unlisted address reads as: construction zeroes memory (R40, log entry 14). -/
def Memory.unlisted : Byte := 0x00#8

/-- The byte at an address (R64). -/
def Memory.read : Memory → Nat → Byte
  | [], _ => Memory.unlisted
  | (k, b) :: m, a => if a = k then b else Memory.read m a

/-- Write one byte (R64: only that byte), keeping the canonical form. -/
def Memory.write : Memory → Nat → Byte → Memory
  | [], a, b => if b = Memory.unlisted then [] else [(a, b)]
  | (k, c) :: m, a, b =>
    if a < k then (if b = Memory.unlisted then (k, c) :: m else (a, b) :: (k, c) :: m)
    else if a = k then (if b = Memory.unlisted then m else (a, b) :: m)
    else (k, c) :: Memory.write m a b

/-- The canonical form from address `lo` up: strictly rising, no entry equal to `unlisted`. -/
def Memory.wfFrom : Nat → Memory → Bool
  | _, [] => true
  | lo, (k, b) :: m => decide (lo ≤ k) && (b != Memory.unlisted) && Memory.wfFrom (k + 1) m

/-- Memory is in its canonical form. -/
def Memory.wf (m : Memory) : Bool := Memory.wfFrom 0 m

/-- Every listed address is below `n`. -/
def Memory.fits (n : Nat) (m : Memory) : Bool := m.all fun cell => decide (cell.1 < n)

/-- Write bytes at consecutive addresses, unchecked: Load and the font preload (R54). -/
def Memory.writeAll : Memory → Nat → List Byte → Memory
  | m, _, [] => m
  | m, a, b :: bs => Memory.writeAll (Memory.write m a b) (a + 1) bs

/-- The memory of `n` bytes from address `a` up whose bytes are `f`'s. -/
def Memory.tabulate (f : Nat → Byte) : Nat → Nat → Memory
  | 0, _ => []
  | n + 1, a =>
    if f a = Memory.unlisted then Memory.tabulate f n (a + 1)
    else (a, f a) :: Memory.tabulate f n (a + 1)

/-! ### Display (45_display.md R220) -/

/-- The cell at row `r`, column `c`; a cell that does not exist reads as false. -/
def Grid.get (g : Grid) (r c : Nat) : Bool := (g.getD r []).getD c false

/-- Set the cell at row `r`, column `c`; a cell that does not exist is not set. -/
def Grid.set (g : Grid) (r c : Nat) (b : Bool) : Grid := g.modify r fun row => row.set c b

/-- A grid of `h` rows and `w` columns with every cell false (R221). -/
def Grid.blank (h w : Nat) : Grid := List.replicate h (List.replicate w false)

/-- A grid of `h` rows and `w` columns whose cells are `f`'s. -/
def Grid.tabulate (f : Nat → Nat → Bool) (h w : Nat) : Grid :=
  (List.range h).map fun r => (List.range w).map fun c => f r c

/-- The grid has `h` rows of `w` columns each (R29). -/
def Grid.hasSize (h w : Nat) (g : Grid) : Bool :=
  decide (g.length = h) && g.all fun row => decide (row.length = w)

/-! ### Registers and fields -/

/-- Read register x (R20). -/
def State.getV (s : State) (x : Reg) : Byte := s.v[x.toNat]'(x.isLt)

/-- Write register x (R20); VF is written like any other (R21). -/
def State.setV (s : State) (x : Reg) (b : Byte) : State := { s with v := s.v.set x.toNat b x.isLt }

/-- VF is `V[15]` (R16). -/
abbrev vf : Reg := 0xF#4

def State.setI (s : State) (w : Word) : State := { s with i := w }
def State.setPc (s : State) (w : Word) : State := { s with pc := w }
def State.setStack (s : State) (l : List Word) : State := { s with stack := l }
def State.setDt (s : State) (b : Byte) : State := { s with dt := b }
def State.setSt (s : State) (b : Byte) : State := { s with st := b }
def State.setMem (s : State) (m : Memory) : State := { s with mem := m }
def State.setDisp (s : State) (g : Grid) : State := { s with disp := g }
def State.setDirty (s : State) (b : Bool) : State := { s with dirty := b }

/-- Move PC on by one word (R114, and the skip of R150), modulo 65536. -/
def State.advancePc (s : State) : State := s.setPc (s.pc + 2#16)

/-- The address of the instruction being executed, `pc0` of R114: on entry to a meaning PC already
holds `pc0 + 2`, modulo 65536 (log entry 12). -/
def State.pc0 (s : State) : Word := s.pc - 2#16

/-! ### Draws and diagnostics -/

/-- The draws of the current Step (R37): what the environment has handed over, else free values. -/
def State.draws (s : State) : Draws :=
  match s.envDraws with
  | d :: _ => d
  | [] => ⟨Config.freeKeys s.drawCount, Config.freeKeyEvent s.drawCount, Config.freeRand s.drawCount⟩

/-- A Step uses up its draws: the next Step gets its own (R250). -/
def State.takeDraws (s : State) : State :=
  { s with envDraws := s.envDraws.tail, drawCount := s.drawCount + 1 }

/-- The environment hands over draws for the next Step (R310). -/
def State.supplyDraws (s : State) (d : Draws) : State := { s with envDraws := d :: s.envDraws }

/-- Emit a diagnostic (R276). -/
def State.emitDiag (s : State) (d : Diag) : State := { s with diags := s.diags ++ [d] }

/-- The unknown opcode `w` (R118): a diagnostic, and nothing else. -/
def State.unknownOpcode (s : State) (w : Word) : State := s.emitDiag ⟨s.pc0, w⟩

/-! ### The fatal fault (60_exceptions.md R270, R271)

There is no trap entry (R279) and no return from one (R280): a Step that raises a fault stops, and
the engine never runs again (R120). -/

/-- `raise Fatal(kind, info)` (R15): the Step ends with the fault and answers it (R119). -/
def raiseFatal (f : Fault) : StepOutcome := .fault f

/-- The engine after a Step that raised `f` (R119, R271): `fault` holds the record and every other
piece of state is unspecified, so a free value of its type and range (log entry 5). The
configuration and the model's own fields stay. -/
def State.recordFatal (s : State) (f : Fault) : State :=
  let n := s.drawCount
  { s with
    v := Vector.ofFn fun (k : Fin 16) => Config.faultV n k.val
    i := Config.faultI n
    pc := Config.faultPc n
    stack := (Config.faultStack n).take s.cfg.stackDepth
    dt := Config.faultDt n
    st := Config.faultSt n
    mem := Memory.tabulate (Config.faultMem n) s.cfg.memSize 0
    disp := Grid.tabulate (Config.faultPixel n) s.cfg.dispH s.cfg.dispW
    dirty := Config.faultDirty n
    loaded := Config.faultLoaded n
    endMarker := (s.cfg.programStart : Int) - 1
      + ((Config.faultEnd n % (s.cfg.memSize - s.cfg.programStart + 1) : Nat) : Int)
    fault := some f }

/-- The numeric code of a fault kind (R270). -/
def Fault.code : Fault → Nat
  | .fetchOob _ _ => 1
  | .memReadOob _ _ => 2
  | .memWriteOob _ _ => 3
  | .stackOverflow _ => 4
  | .stackUnderflow _ => 5

/-- A meaning's result as an outcome: the next state, or the fault raised. -/
def finish : Except Fault State → StepOutcome
  | .ok s => .next s
  | .error f => raiseFatal f

/-! ### Checked accesses (20_memory.md R55, R56, R57) -/

/-- `MemRead(addr, 1)`: the address is checked first; `kind` makes the fault of the access path. -/
def State.readByte (s : State) (kind : Nat → Fault) (a : Nat) : Except Fault Byte :=
  if a < s.cfg.memSize then .ok (s.mem.read a) else .error (kind a)

/-- `MemWrite(addr, 1, v)`: the address is checked first. -/
def State.writeByte (s : State) (a : Nat) (b : Byte) : Except Fault State :=
  if a < s.cfg.memSize then .ok (s.setMem (s.mem.write a b)) else .error (.memWriteOob s.pc0 a)

/-- Write bytes at `a`, `a + 1`, ... in that order, stopping at the first that is out of range
(44_index_memory.md R200). -/
def State.storeBytes : State → Nat → List Byte → Except Fault State
  | s, _, [] => .ok s
  | s, a, b :: bs =>
    match s.writeByte a b with
    | .ok t => State.storeBytes t (a + 1) bs
    | .error f => .error f

/-- `for k in k .. k + n - 1: V[k] <- MemRead(base + k, 1)`, stopping at the first address that is
out of range (44_index_memory.md R200, R207). -/
def State.loadV (base : Nat) : Nat → Nat → State → Except Fault State
  | 0, _, s => .ok s
  | n + 1, k, s =>
    match s.readByte (.memReadOob s.pc0) (base + k) with
    | .ok b => State.loadV base n (k + 1) (s.setV (BitVec.ofNat 4 k) b)
    | .error f => .error f

/-! ### The call stack (10_state.md R25) -/

/-- `push(v)`. -/
def State.push (s : State) (w : Word) : Except Fault State :=
  if s.stack.length < s.cfg.stackDepth then .ok (s.setStack (s.stack ++ [w]))
  else .error (.stackOverflow s.pc0)

/-- `pop()`: the last entry, removed and returned. -/
def State.pop (s : State) : Except Fault (Word × State) :=
  match s.stack.getLast? with
  | some w => .ok (w, s.setStack s.stack.dropLast)
  | none => .error (.stackUnderflow s.pc0)

/-! ### Parts of the Step (40_cycle.md) -/

/-- The halt test (R111): not loaded, or PC beyond the end marker, compared as integers. -/
def State.halted (s : State) : Bool := !s.loaded || decide (s.endMarker < (s.pc.toNat : Int))

/-- Fetch (R113): the bytes at PC and PC + 1, big-endian, each checked, the one at PC first. -/
def State.fetch (s : State) : Except Fault Word :=
  match s.readByte (.fetchOob s.pc) s.pc.toNat with
  | .error f => .error f
  | .ok hi =>
    match s.readByte (.fetchOob s.pc) (s.pc.toNat + 1) with
    | .error f => .error f
    | .ok lo => .ok (wordOfBytes hi lo)

/-- The end of a Step that ran: its draws are used up. -/
def endStep : StepOutcome → StepOutcome
  | .next s => .next s.takeDraws
  | .fault f => .fault f
  | .refused r => .refused r

/-- `s` with the word `w` loaded at PC as a program that reaches it: its two bytes in memory, the
engine runnable, the end marker at or beyond them, no fault recorded (log entry 13). -/
def State.placeWord (s : State) (w : Word) : State :=
  { s with
    mem := s.mem.writeAll s.pc.toNat (bytesOfWord w)
    loaded := true
    endMarker := max s.endMarker ((s.pc.toNat : Int) + 1)
    fault := none }

end Sys2Proof.Machine
end

