-- ==== Sys2Proof/Machine/Flags.lean ====
section
/-!
DEFINITION. Every value VF takes as a flag (10_state.md R22, 43_alu.md R179, 45_display.md R227).
-/

namespace Sys2Proof.Machine

/-- A flag as the byte VF holds: 1 or 0. -/
def flagByte (b : Bool) : Byte := if b then 0x01#8 else 0x00#8

/-- The carry of ADD Vx, Vy (R173): the exact sum exceeds 255. -/
def carryFlag (a b : Byte) : Bool := decide (255 < a.toNat + b.toNat)

/-- The not-borrow of `a - b` (R174, R176): set when `a` is at least `b`, equality included. -/
def notBorrow (a b : Byte) : Bool := decide (b.toNat ≤ a.toNat)

/-- The bit SHR shifts out (R175). -/
def shrFlag (s : Byte) : Bool := s.getLsbD 0

/-- The bit SHL shifts out (R177). -/
def shlFlag (s : Byte) : Bool := s.getLsbD 7

/-- Write a result to `V[x]`, then a flag to VF: the flag is written last and survives (R166, R21). -/
def State.setResultFlag (s : State) (x : Reg) (r : Byte) (f : Bool) : State :=
  (s.setV x r).setV vf (flagByte f)

/-- Write the result of OR, AND or XOR, then clear VF when `LOGIC_RESETS_VF` (R170 to R172). -/
def State.setLogic (s : State) (x : Reg) (r : Byte) : State :=
  if s.cfg.logicResetsVF then (s.setV x r).setV vf 0x00#8 else s.setV x r

end Sys2Proof.Machine
end

