-- ==== Sys2Proof/Machine/Operands.lean ====
section
/-!
DEFINITION. The operand forms: how the fields of an instruction become values and addresses
(30_encoding.md R83 and the instruction rules).
-/

namespace Sys2Proof.Machine

/-- `zext_16(NNN)` (R14, R83). -/
def zext12 (nnn : Addr12) : Word := nnn.setWidth 16

/-- An 8-bit value as a 16-bit one (R14). -/
def zext8 (b : Byte) : Word := b.setWidth 16

/-- The operand of SHR and SHL (R175, R177): `V[y]` or `V[x]`, as `SHIFT_SRC` says. -/
def State.shiftOperand (s : State) (x y : Reg) : Byte :=
  match s.cfg.shiftSrc with
  | .vy => s.getV y
  | .vx => s.getV x

/-- The register JP V0 adds (R134): V0, or the X field of the same twelve bits. -/
def State.jumpReg (s : State) (nnn : Addr12) : Reg :=
  match s.cfg.jumpOffsetReg with
  | .v0 => 0x0#4
  | .vx => nnn.extractLsb' 8 4

/-- The low nibble of a register: it selects a glyph (R203) or a key (R255). -/
def lowNibble (b : Byte) : Nibble := b.extractLsb' 0 4

/-- The address of the glyph of a digit (R203): `FONT_BASE + 5 * digit`, modulo 65536. -/
def State.glyphAddr (s : State) (b : Byte) : Word :=
  BitVec.ofNat 16 (s.cfg.fontBase + 5 * (lowNibble b).toNat)

/-- Is the key that a register names held (R255)? -/
def State.keyHeld (s : State) (b : Byte) : Bool := s.draws.keys.getLsbD (lowNibble b).toNat

/-- The column DRW starts at (R223). -/
def State.originX (s : State) (x : Reg) : Nat := (s.getV x).toNat % s.cfg.dispW

/-- The row DRW starts at (R223). -/
def State.originY (s : State) (y : Reg) : Nat := (s.getV y).toNat % s.cfg.dispH

/-- The address of the k-th byte of an access through I: the exact natural number `I + k` (R55, R200). -/
def State.indexAddr (s : State) (k : Nat) : Nat := s.i.toNat + k

/-- V0 to Vx in order: the bytes LD [I], Vx stores (R206). -/
def State.blockV (s : State) (x : Reg) : List Byte :=
  (List.range (x.toNat + 1)).map fun k => s.getV (BitVec.ofNat 4 k)

/-- I after LD [I], Vx and LD Vx, [I] (R206, R207): advanced past the block when `LDI_INCREMENTS_I`. -/
def State.advanceI (s : State) (x : Reg) : State :=
  if s.cfg.ldiIncrementsI then s.setI (s.i + BitVec.ofNat 16 (x.toNat + 1)) else s

/-- The three decimal digits of a byte, hundreds first (R204, R205). -/
def bcdDigits (b : Byte) : List Byte :=
  [BitVec.ofNat 8 (b.toNat / 100), BitVec.ofNat 8 (b.toNat / 10 % 10), BitVec.ofNat 8 (b.toNat % 10)]

end Sys2Proof.Machine
end

