-- ==== Sys2Proof/Machine/Alu.lean ====
section
/-!
DEFINITION. Register set, add, arithmetic-logic and random (43_alu.md). Operands are read first, then
the result is written, then VF (R166).
-/

namespace Sys2Proof.Machine

/-- LD Vx, byte (R167). -/
def execLdByte (x : Reg) (nn : Byte) (s : State) : StepOutcome := .next (s.setV x nn)

/-- ADD Vx, byte (R168): no carry is written (C2). -/
def execAddByte (x : Reg) (nn : Byte) (s : State) : StepOutcome := .next (s.setV x (s.getV x + nn))

/-- LD Vx, Vy (R169). -/
def execLdReg (x y : Reg) (s : State) : StepOutcome := .next (s.setV x (s.getV y))

/-- OR Vx, Vy (R170). -/
def execOrReg (x y : Reg) (s : State) : StepOutcome := .next (s.setLogic x (s.getV x ||| s.getV y))

/-- AND Vx, Vy (R171). -/
def execAndReg (x y : Reg) (s : State) : StepOutcome := .next (s.setLogic x (s.getV x &&& s.getV y))

/-- XOR Vx, Vy (R172). -/
def execXorReg (x y : Reg) (s : State) : StepOutcome := .next (s.setLogic x (s.getV x ^^^ s.getV y))

/-- ADD Vx, Vy (R173). -/
def execAddReg (x y : Reg) (s : State) : StepOutcome :=
  .next (s.setResultFlag x (s.getV x + s.getV y) (carryFlag (s.getV x) (s.getV y)))

/-- SUB Vx, Vy (R174). -/
def execSubReg (x y : Reg) (s : State) : StepOutcome :=
  .next (s.setResultFlag x (s.getV x - s.getV y) (notBorrow (s.getV x) (s.getV y)))

/-- SHR Vx, Vy (R175). -/
def execShr (x y : Reg) (s : State) : StepOutcome :=
  .next (s.setResultFlag x (s.shiftOperand x y >>> 1) (shrFlag (s.shiftOperand x y)))

/-- SUBN Vx, Vy (R176). -/
def execSubn (x y : Reg) (s : State) : StepOutcome :=
  .next (s.setResultFlag x (s.getV y - s.getV x) (notBorrow (s.getV y) (s.getV x)))

/-- SHL Vx, Vy (R177). -/
def execShl (x y : Reg) (s : State) : StepOutcome :=
  .next (s.setResultFlag x (s.shiftOperand x y <<< 1) (shlFlag (s.shiftOperand x y)))

/-- RND Vx, byte (R178): the drawn byte, masked. -/
def execRnd (x : Reg) (nn : Byte) (s : State) : StepOutcome := .next (s.setV x (s.draws.rand &&& nn))

end Sys2Proof.Machine
end

