-- ==== Sys2Proof/Machine/Control.lean ====
section
/-!
DEFINITION. Control transfer (41_control.md). On entry PC holds `pc0 + 2`. Targets are not checked (R135).
-/

namespace Sys2Proof.Machine

/-- SYS addr (R130): the word 0NNN is an unknown opcode, so the no-op of R118. -/
def execSys (nnn : Addr12) (s : State) : StepOutcome := .next (s.unknownOpcode (wordNNN 0x0#4 nnn))

/-- JP addr (R131). -/
def execJp (nnn : Addr12) (s : State) : StepOutcome := .next (s.setPc (zext12 nnn))

/-- CALL addr (R132): push the advanced PC, then jump. -/
def execCall (nnn : Addr12) (s : State) : StepOutcome :=
  match s.push s.pc with
  | .ok t => .next (t.setPc (zext12 nnn))
  | .error f => raiseFatal f

/-- RET (R133). -/
def execRet (s : State) : StepOutcome :=
  match s.pop with
  | .ok (w, t) => .next (t.setPc w)
  | .error f => raiseFatal f

/-- JP V0, addr (R134). -/
def execJpV0 (nnn : Addr12) (s : State) : StepOutcome :=
  .next (s.setPc (zext12 nnn + zext8 (s.getV (s.jumpReg nnn))))

end Sys2Proof.Machine
end

