-- ==== Sys2Proof/Machine/Display.lean ====
section
/-!
DEFINITION. Clear and sprite draw (45_display.md).
-/

namespace Sys2Proof.Machine

/-- CLS (R221): every cell false, dirty set. -/
def execCls (s : State) : StepOutcome :=
  .next ((s.setDisp (Grid.blank s.cfg.dispH s.cfg.dispW)).setDirty true)

/-- What a draw works on: the display, the collision so far and the dirty flag. -/
structure Canvas where
  grid  : Grid
  hit   : Bool
  dirty : Bool
deriving DecidableEq, Repr

/-- A 1-bit at a cell (R225): a lit cell is a collision (R227), the cell flips, dirty is set (R228). -/
def Canvas.flip (c : Canvas) (row col : Nat) : Canvas where
  grid  := c.grid.set row col (!c.grid.get row col)
  hit   := c.hit || c.grid.get row col
  dirty := true

/-- The bits j of one sprite row, in order (R225), stopping at the first column beyond the display
(R224). Bit `7 - j` of the byte is at column offset j (R222). -/
def Canvas.drawBits (w x0 row : Nat) (b : Byte) : List Nat → Canvas → Canvas
  | [], c => c
  | j :: js, c =>
    if w ≤ x0 + j then c
    else Canvas.drawBits w x0 row b js (if b.getLsbD (7 - j) then c.flip row (x0 + j) else c)

/-- The column offsets of a sprite row (R222). -/
def spriteCols : List Nat := [0, 1, 2, 3, 4, 5, 6, 7]

/-- The rows `r`, `r + 1`, ... of a sprite, `n` of them (R225): each row's byte is read before its
clip test (R226), and the first row beyond the display ends the draw (R224). -/
def State.drawRows (s : State) (x0 y0 : Nat) : Nat → Nat → Canvas → Except Fault Canvas
  | 0, _, c => .ok c
  | n + 1, r, c =>
    match s.readByte (.memReadOob s.pc0) (s.indexAddr r) with
    | .error f => .error f
    | .ok b =>
      if s.cfg.dispH ≤ y0 + r then .ok c
      else s.drawRows x0 y0 n (r + 1) (c.drawBits s.cfg.dispW x0 (y0 + r) b spriteCols)

/-- The canvas of a draw whose origin registers are x and y (R223, R225): VF starts at 0. -/
def State.drawSprite (s : State) (x y : Reg) (n : Nibble) : Except Fault Canvas :=
  s.drawRows (s.originX x) (s.originY y) n.toNat 0 ⟨s.disp, false, s.dirty⟩

/-- The state with a finished canvas: the display, the dirty flag, and VF the collision (R227). -/
def State.setCanvas (s : State) (c : Canvas) : State :=
  ((s.setDisp c.grid).setDirty c.dirty).setV vf (flagByte c.hit)

/-- DRW Vx, Vy, nibble (R225). -/
def execDrw (x y : Reg) (n : Nibble) (s : State) : StepOutcome :=
  match s.drawSprite x y n with
  | .ok c => .next (s.setCanvas c)
  | .error f => raiseFatal f

end Sys2Proof.Machine
end

