-- ==== Sys2Proof/Machine/IndexMemory.lean ====
section
/-!
DEFINITION. Index register and memory transfer (44_index_memory.md).
-/

namespace Sys2Proof.Machine

/-- LD I, addr (R201). -/
def execLdI (nnn : Addr12) (s : State) : StepOutcome := .next (s.setI (zext12 nnn))

/-- ADD I, Vx (R202): VF is not written. -/
def execAddI (x : Reg) (s : State) : StepOutcome := .next (s.setI (s.i + zext8 (s.getV x)))

/-- LD F, Vx (R203). -/
def execLdF (x : Reg) (s : State) : StepOutcome := .next (s.setI (s.glyphAddr (s.getV x)))

/-- LD B, Vx (R205): three digits at I, I + 1, I + 2. -/
def execLdB (x : Reg) (s : State) : StepOutcome :=
  finish (s.storeBytes (s.indexAddr 0) (bcdDigits (s.getV x)))

/-- LD [I], Vx (R206): V0 to Vx at I, I + 1, ..., then I. -/
def execStoreRegs (x : Reg) (s : State) : StepOutcome :=
  match s.storeBytes (s.indexAddr 0) (s.blockV x) with
  | .ok t => .next (t.advanceI x)
  | .error f => raiseFatal f

/-- LD Vx, [I] (R207): V0 to Vx from I, I + 1, ..., then I. -/
def execLoadRegs (x : Reg) (s : State) : StepOutcome :=
  match State.loadV (s.indexAddr 0) (x.toNat + 1) 0 s with
  | .ok t => .next (t.advanceI x)
  | .error f => raiseFatal f

end Sys2Proof.Machine
end

