-- ==== Sys2Proof/Machine/Skip.lean ====
section
/-!
DEFINITION. Conditional skips (42_skip.md).
-/

namespace Sys2Proof.Machine

/-- Skip when `c` holds (R150): PC moves on by one more word. -/
def State.skipWhen (s : State) (c : Bool) : State := if c then s.advancePc else s

/-- SE Vx, byte (R151). -/
def execSeByte (x : Reg) (nn : Byte) (s : State) : StepOutcome :=
  .next (s.skipWhen (s.getV x == nn))

/-- SNE Vx, byte (R152). -/
def execSneByte (x : Reg) (nn : Byte) (s : State) : StepOutcome :=
  .next (s.skipWhen (s.getV x != nn))

/-- SE Vx, Vy (R153). -/
def execSeReg (x y : Reg) (s : State) : StepOutcome :=
  .next (s.skipWhen (s.getV x == s.getV y))

/-- SNE Vx, Vy (R154). -/
def execSneReg (x y : Reg) (s : State) : StepOutcome :=
  .next (s.skipWhen (s.getV x != s.getV y))

end Sys2Proof.Machine
end

