-- ==== Sys2Proof/Machine/TimerInput.lean ====
section
/-!
DEFINITION. Timer access and key input (46_timers_input.md).
-/

namespace Sys2Proof.Machine

/-- LD Vx, DT (R251). -/
def execLdVxDt (x : Reg) (s : State) : StepOutcome := .next (s.setV x s.dt)

/-- LD DT, Vx (R252). -/
def execLdDtVx (x : Reg) (s : State) : StepOutcome := .next (s.setDt (s.getV x))

/-- LD ST, Vx (R253). -/
def execLdStVx (x : Reg) (s : State) : StepOutcome := .next (s.setSt (s.getV x))

/-- LD Vx, K (R254): with no key event PC goes back to this instruction. -/
def execLdVxK (x : Reg) (s : State) : StepOutcome :=
  .next (match s.draws.keyEvent with
    | none => s.setPc (s.pc - 2#16)
    | some k => s.setV x (k.setWidth 8))

/-- SKP Vx (R255). -/
def execSkp (x : Reg) (s : State) : StepOutcome := .next (s.skipWhen (s.keyHeld (s.getV x)))

/-- SKNP Vx (R256). -/
def execSknp (x : Reg) (s : State) : StepOutcome := .next (s.skipWhen (!s.keyHeld (s.getV x)))

end Sys2Proof.Machine
end

