-- ==== Sys2Proof/Machine/Step.lean ====
section
/-!
DEFINITION. The Step of 40_cycle.md R121.
-/

namespace Sys2Proof.Machine

/-- Decode and execute the word `w` fetched by a Step; PC is already advanced (R116 to R118). -/
def runWord (w : Word) (s : State) : Host.Outcome State Fault Refusal :=
  match decode s.cfg w with
  | .ok i => exec i s
  | .error _ => .next (s.unknownOpcode w)

/-- One Step (R121, priorities of 60_exceptions.md R278). A recorded fault is returned again (R120).
A halted Step changes nothing (R112): its next state is the state itself (log entry 3). A fatal
fault ends the Step with the record (R119; log entry 4). Otherwise the word at PC runs, PC advanced
first (R114), and the Step's draws are used up. -/
def step (s : State) : Host.Outcome State Fault Refusal :=
  match s.fault with
  | some f => raiseFatal f
  | none =>
    if s.halted then .next s
    else
      match s.fetch with
      | .error f => raiseFatal f
      | .ok w => endStep (runWord w s.advancePc)

/-- `s` with the instruction of a table word placed where the next Step fetches (log entry 13). -/
def State.withFetchWord (s : State) (nbits w : Nat) : State := s.placeWord (tableWord nbits w)

end Sys2Proof.Machine
end

