-- ==== Sys2Proof/Machine/HostOps.lean ====
section
/-!
DEFINITION. The host interface: the operations of 70_reset_and_hazards.md R310, each one transaction.
-/

namespace Sys2Proof.Machine

/-! ### Construction (R300, R301) -/

/-- Construct's only failure (R300). -/
inductive ConfigError where
  | illegalConfiguration
deriving DecidableEq, Repr

/-- The glyphs of the sixteen hexadecimal digits, five bytes each (20_memory.md R52). -/
def fontTable : List Byte :=
  [0xF0#8, 0x90#8, 0x90#8, 0x90#8, 0xF0#8,  0x20#8, 0x60#8, 0x20#8, 0x20#8, 0x70#8,
   0xF0#8, 0x10#8, 0xF0#8, 0x80#8, 0xF0#8,  0xF0#8, 0x10#8, 0xF0#8, 0x10#8, 0xF0#8,
   0x90#8, 0x90#8, 0xF0#8, 0x10#8, 0x10#8,  0xF0#8, 0x80#8, 0xF0#8, 0x10#8, 0xF0#8,
   0xF0#8, 0x80#8, 0xF0#8, 0x90#8, 0xF0#8,  0xF0#8, 0x10#8, 0x20#8, 0x40#8, 0x40#8] ++
  [0xF0#8, 0x90#8, 0xF0#8, 0x90#8, 0xF0#8,  0xF0#8, 0x90#8, 0xF0#8, 0x10#8, 0xF0#8,
   0xF0#8, 0x90#8, 0xF0#8, 0x90#8, 0x90#8,  0xE0#8, 0x90#8, 0xE0#8, 0x90#8, 0xE0#8,
   0xF0#8, 0x80#8, 0x80#8, 0x80#8, 0xF0#8,  0xE0#8, 0x90#8, 0x90#8, 0x90#8, 0xE0#8,
   0xF0#8, 0x80#8, 0xF0#8, 0x80#8, 0xF0#8,  0xF0#8, 0x80#8, 0xF0#8, 0x80#8, 0x80#8]

/-- Construct(config) (R300, R301): the configuration is checked, the state of R40 built, and the
font written when `FONT_PRELOAD` (R52). -/
def State.construct (c : Config) : Except ConfigError State :=
  if c.valid then
    .ok (if c.fontPreload then
        (State.zeroed c).setMem ((State.zeroed c).mem.writeAll c.fontBase fontTable)
      else State.zeroed c)
  else .error .illegalConfiguration

/-! ### Load (R303 to R307) -/

/-- What Load receives (R303): the whole byte sequence, or an I/O failure of its source. -/
inductive Image where
  | bytes (l : List Byte)
  | ioFailure
deriving DecidableEq, Repr

/-- Load's failures (R304). -/
inductive LoadError where
  | io
  | outOfBounds
deriving DecidableEq, Repr

/-- Load(image) (R304, R305): the error, or the loaded state. A failed Load changes no state (R306). -/
def State.load (s : State) (image : Image) : Except LoadError State :=
  match image with
  | .ioFailure => .error .io
  | .bytes l =>
    if s.cfg.programStart + l.length ≤ s.cfg.memSize then
      .ok { s with
        mem := s.mem.writeAll s.cfg.programStart l
        endMarker := (s.cfg.programStart : Int) + (l.length : Int) - 1
        loaded := true }
    else .error .outOfBounds

/-! ### Timers and the rendering contract -/

/-- One timer's Tick (60_exceptions.md R285): down by one, stopping at zero. -/
def tickTimer (b : Byte) : Byte := if b = 0x00#8 then b else b - 0x01#8

/-- Tick() (R285). -/
def State.tick (s : State) : State := (s.setDt (tickTimer s.dt)).setSt (tickTimer s.st)

/-- ShouldRedraw() (45_display.md R233). -/
def State.shouldRedraw (s : State) : Bool := s.dirty

/-- Snapshot() (R234): a copy of the display. -/
def State.snapshot (s : State) : Grid := s.disp

/-- AcknowledgeRedraw() (R235). -/
def State.acknowledgeRedraw (s : State) : State := s.setDirty false

/-! ### Step as a host operation (40_cycle.md R110, R119, R120) -/

/-- What Step returns to the host (R110). `refused` never happens: no step of this model refuses. -/
inductive StepResult where
  | running
  | halted
  | fatal (f : Fault)
  | refused (r : Refusal)
deriving DecidableEq, Repr

/-- Step() with the draws the environment hands over (R110, R121, R310): the state after it and what
it returns. A Step on a faulted engine (R120) or a halted one (R112) changes no state. A Step that
faults records the fault (R119; log entries 4 and 5). -/
def State.stepWith (d : Draws) (s : State) : State × StepResult :=
  match s.fault with
  | some f => (s, .fatal f)
  | none =>
    if s.halted then (s, .halted)
    else
      match step (s.supplyDraws d) with
      | .next t => (t, .running)
      | .fault f => ((s.supplyDraws d).takeDraws.recordFatal f, .fatal f)
      | .refused r => (s, .refused r)

/-! ### The operation table (R310) -/

/-- The operations on an engine that exists, with what the host hands over (R310). -/
inductive HostOp where
  | load (image : Image)
  | step (d : Draws)
  | tick
  | shouldRedraw
  | snapshot
  | acknowledgeRedraw
deriving DecidableEq, Repr

/-- What an operation returns (R310). -/
inductive Response where
  | loaded
  | loadFailed (e : LoadError)
  | stepped (r : StepResult)
  | done
  | redraw (b : Bool)
  | display (g : Grid)
deriving DecidableEq, Repr

/-- One operation as one indivisible transaction (20_memory.md R63, R310). -/
def transact (op : HostOp) (s : State) : State × Response :=
  match op with
  | .load image =>
    match s.load image with
    | .ok t => (t, .loaded)
    | .error e => (s, .loadFailed e)
  | .step d => ((s.stepWith d).1, .stepped (s.stepWith d).2)
  | .tick => (s.tick, .done)
  | .shouldRedraw => (s, .redraw s.shouldRedraw)
  | .snapshot => (s, .display s.snapshot)
  | .acknowledgeRedraw => (s.acknowledgeRedraw, .done)

/-- Operations one after another, in the order the host chose (R70). -/
def runOps : List HostOp → State → State
  | [], s => s
  | op :: ops, s => runOps ops (transact op s).1

end Sys2Proof.Machine
end

