-- ==== Sys2Proof/Safety.lean ====
section
/-!
DEFINITION. The terms claims are stated in: the invariant of the engine, runs that stop at no fault,
what an instruction touches, and the classes of instructions the spec's prose names.
-/

namespace Sys2Proof.Machine

/-- The relations between the fields of an engine's state that every operation keeps: a legal
configuration (R300), memory in its canonical form inside `[0, MEM_SIZE)` (R50), the display's size
(R29), the stack's bound (R25) and the end marker's range (R32). -/
structure State.Inv (s : State) : Prop where
  cfgValid : s.cfg.valid = true
  memWf : s.mem.wf = true
  memFits : s.mem.fits s.cfg.memSize = true
  dispSize : s.disp.hasSize s.cfg.dispH s.cfg.dispW = true
  stackBound : s.stack.length ≤ s.cfg.stackDepth
  endLow : (s.cfg.programStart : Int) - 1 ≤ s.endMarker
  endHigh : s.endMarker ≤ (s.cfg.memSize : Int) - 1

/-- A safe run: `n` Steps from `s`, none of which ends in a fault or a refusal. -/
def SafeRun (n : Nat) (s : State) : Prop := ∃ t, core.run n s = .next t

/-- The engine takes its next Step with an instruction: no recorded fault (R120), not halted (R111),
and both bytes of the word in memory (R113). -/
def State.canFetch (s : State) : Bool :=
  decide (s.fault = none) && !s.halted && decide (s.pc.toNat + 1 < s.cfg.memSize)

/-- The word at PC (R58): big-endian. -/
def State.wordAtPc (s : State) : Word :=
  wordOfBytes (s.mem.read s.pc.toNat) (s.mem.read (s.pc.toNat + 1))

/-- The pieces of state an instruction may change, for its frame. What is not named is not touched. -/
structure Touched where
  regs  : List Reg := []
  addrs : List Nat := []
  index : Bool := false
  pc    : Bool := false
  stack : Bool := false
  dt    : Bool := false
  st    : Bool := false
  cells : Bool := false
  dirty : Bool := false
  diags : Bool := false

/-- `t` differs from `s` only where `w` allows: every other register, every byte of memory at any
other address, and every other piece of state is as before. The configuration, the loaded flag, the
end marker, the fault record and the draws are never touched by an instruction. -/
structure TouchesOnly (w : Touched) (s t : State) : Prop where
  regs : ∀ r, r ∉ w.regs → t.getV r = s.getV r
  mem : ∀ a, a ∉ w.addrs → t.mem.read a = s.mem.read a
  index : w.index = false → t.i = s.i
  pc : w.pc = false → t.pc = s.pc
  stack : w.stack = false → t.stack = s.stack
  dt : w.dt = false → t.dt = s.dt
  st : w.st = false → t.st = s.st
  cells : w.cells = false → t.disp = s.disp
  dirty : w.dirty = false → t.dirty = s.dirty
  diags : w.diags = false → t.diags = s.diags
  cfg : t.cfg = s.cfg
  loaded : t.loaded = s.loaded
  endMarker : t.endMarker = s.endMarker
  fault : t.fault = s.fault
  envDraws : t.envDraws = s.envDraws
  drawCount : t.drawCount = s.drawCount

/-- The instructions that write PC other than by the fetch (R122): jumps, calls, returns, skips and
the key wait. -/
def writesPc : Instr → Bool
  | .jp _ | .call _ | .ret | .jpV0 _ => true
  | .seByte _ _ | .sneByte _ _ | .seReg _ _ | .sneReg _ _ => true
  | .skp _ | .sknp _ | .ldVxK _ => true
  | .cls | .ldByte _ _ | .addByte _ _ | .ldReg _ _ | .orReg _ _ | .andReg _ _ => false
  | .xorReg _ _ | .addReg _ _ | .subReg _ _ | .shr _ _ | .subn _ _ | .shl _ _ => false
  | .ldI _ | .rnd _ _ | .drw _ _ _ | .ldVxDt _ | .ldDtVx _ | .ldStVx _ => false
  | .addI _ | .ldF _ | .ldB _ | .storeRegs _ | .loadRegs _ | .sys _ => false

/-- The instructions that write memory (R54). -/
def writesMemory (i : Instr) : Bool :=
  match i with
  | .ldB _ | .storeRegs _ => true
  | _ => false

/-- The instructions that write the display (R220). -/
def writesDisplay (i : Instr) : Bool :=
  match i with
  | .cls | .drw _ _ _ => true
  | _ => false

/-- The instructions that use the call stack (R26). -/
def usesStack (i : Instr) : Bool :=
  match i with
  | .call _ | .ret => true
  | _ => false

/-- The instructions that write the index register (R23). -/
def writesIndex (i : Instr) : Bool :=
  match i with
  | .ldI _ | .addI _ | .ldF _ | .storeRegs _ | .loadRegs _ => true
  | _ => false

/-- Is the 1-bit of the sprite at `I` drawn over cell `(r, c)` by a draw of `n` rows from `(y0, x0)`
on the engine's display (R222, R224)? -/
def State.spriteBit (s : State) (x0 y0 n r c : Nat) : Bool :=
  decide (y0 ≤ r ∧ r < y0 + n ∧ r < s.cfg.dispH ∧ x0 ≤ c ∧ c < x0 + 8 ∧ c < s.cfg.dispW)
    && (s.mem.read (s.i.toNat + (r - y0))).getLsbD (7 - (c - x0))

/-- The word at PC is an instruction that does not write PC, or an unknown opcode, and it can run. -/
def State.runsStraight (s : State) : Bool :=
  s.canFetch &&
    match decode s.cfg s.wordAtPc with
    | .ok i => !writesPc i
    | .error _ => true

end Sys2Proof.Machine
end

