-- ==== Sys2Proof/Certificates/Slice0/Obligations.lean ====
section
/-!
DEFINITION. The statements about the model, each from rules of spec/. Where a statement rests on a
decision the spec marks as its own or on a choice of the model, its docstring names the decision or
the log entry.
-/

open Sys2Proof Sys2Proof.Machine

/-! ### Encoding (30_encoding.md) -/

/-- R82, R83: the fields of every word give the word back, in each of its three layouts. -/
def Obligations.FieldsRecoverWord : Prop :=
  ∀ w : Word,
    wordXYN (fieldsOf w).cls (fieldsOf w).x (fieldsOf w).y (fieldsOf w).n = w ∧
    wordNNN (fieldsOf w).cls (fieldsOf w).nnn = w ∧
    wordXNN (fieldsOf w).cls (fieldsOf w).x (fieldsOf w).nn = w

/-- R86, R89: decoding the word of a well-formed instruction gives it back, under every configuration,
with every operand at every value. The patterns are the spec's general knowledge (D3; log entry 16). -/
def Obligations.DecodeOfEncode : Prop :=
  ∀ (c : Config) (i : Instr), i.wellFormed c = true → decode c (encode i) = .ok i

/-- R87 to R90: under every configuration the decoder answers `i` for exactly these words: the word of
`i`, `i` being well formed; and the words that differ from it only in bits the configuration ignores,
11 to 8 of CLS and RET under `LOW_BYTE`, 3 to 0 of SE and SNE Vx,Vy under `IGNORE_N` (parameters D5
and D6, patterns D3; log entries 10 and 16). -/
def Obligations.DecodeIsExact : Prop :=
  ∀ (c : Config) (w : Word) (i : Instr), decode c w = .ok i ↔
    i.wellFormed c = true ∧
    (encode i = w ∨
      (c.class0Match = .lowByte ∧ (i = .cls ∨ i = .ret) ∧ encode i = w &&& 0xF0FF#16) ∨
      (c.class59Match = .ignoreN ∧ ((∃ x y, i = .seReg x y) ∨ ∃ x y, i = .sneReg x y) ∧
        encode i = w &&& 0xFFF0#16))

/-- R86: under the default configuration the decoder accepts the words of the opcode table's rows and
reads each as an instruction of its row: what it answers matches the row's mask and match, and a word
that matches a row other than SYS's is read as an instruction of that row. The patterns are the
spec's general knowledge (D3; log entry 16). -/
def Obligations.DecoderFollowsTable : Prop :=
  (∀ (w : Word) (i : Instr), decode Config.defaults w = .ok i →
    w &&& (tableRow i).1 = (tableRow i).2) ∧
  (∀ (w : Word) (i : Instr), w &&& (tableRow i).1 = (tableRow i).2 → (∀ nnn, i ≠ .sys nnn) →
    ∃ j, decode Config.defaults w = .ok j ∧ tableRow j = tableRow i)

/-- R89, R90: a word is known under REFERENCE6 exactly when FULL decodes it to one of CLS, JP addr,
LD Vx,byte, ADD Vx,byte, LD I,addr and DRW, every other word being unknown, and REFERENCE6 decodes a
known word as FULL does (profile and names: D2). -/
def Obligations.ReferenceSixKeepsSix : Prop :=
  ∀ (c : Config) (w : Word),
    (isUnknown { c with opset := .reference6 } w = false ↔
      ∃ i, decode { c with opset := .full } w = .ok i ∧
        (i = .cls ∨ (∃ nnn, i = .jp nnn) ∨ (∃ x nn, i = .ldByte x nn) ∨
          (∃ x nn, i = .addByte x nn) ∨ (∃ nnn, i = .ldI nnn) ∨ (∃ x y n, i = .drw x y n))) ∧
    (isUnknown { c with opset := .reference6 } w = false →
      decode { c with opset := .reference6 } w = decode { c with opset := .full } w)

/-- Sample words, written out from the patterns of R86: one of each family, and one unknown word of
each class that has them (R91). A check of the decoder on fixed words. -/
def Obligations.SampleWordsDecode : Prop :=
  decode Config.defaults 0x00E0#16 = .ok .cls ∧
  decode Config.defaults 0x2ABC#16 = .ok (.call 0xABC#12) ∧
  decode Config.defaults 0x3A05#16 = .ok (.seByte 0xA#4 0x05#8) ∧
  decode Config.defaults 0x81F4#16 = .ok (.addReg 0x1#4 0xF#4) ∧
  decode Config.defaults 0xD12F#16 = .ok (.drw 0x1#4 0x2#4 0xF#4) ∧
  decode Config.defaults 0xE19E#16 = .ok (.skp 0x1#4) ∧
  decode Config.defaults 0xF455#16 = .ok (.storeRegs 0x4#4) ∧
  isUnknown Config.defaults 0x8008#16 = true ∧
  isUnknown Config.defaults 0xE000#16 = true ∧
  isUnknown Config.defaults 0xF0FF#16 = true ∧
  isUnknown Config.defaults 0x0123#16 = true

/-! ### The Step (40_cycle.md) -/

/-- R113 to R117: when no fault is recorded, the engine is not halted and the word at PC decodes to
`i`, a Step is `exec i` on the state with PC moved on by 2 modulo 65536 (D25), and then the Step's
draws are used up (the model's own fields, log entry 6); a fault of `exec` is the Step's. -/
def Obligations.StepRunsDecoded : Prop :=
  ∀ (s : State) (i : Instr), s.canFetch = true → decode s.cfg s.wordAtPc = .ok i →
    step s = endStep (exec i (s.setPc (s.pc + 2#16))) ∧
    (∀ t, exec i (s.setPc (s.pc + 2#16)) = .next t → step s = .next t.takeDraws) ∧
    (∀ f, exec i (s.setPc (s.pc + 2#16)) = .fault f → step s = .fault f)

/-- R58: the fetched word has the byte at PC in bits 15 to 8 and the byte at PC + 1 in bits 7 to 0. -/
def Obligations.FetchIsBigEndian : Prop :=
  ∀ s : State, s.pc.toNat + 1 < s.cfg.memSize →
    ∃ w : Word, s.fetch = .ok w ∧
      w.toNat = 256 * (s.mem.read s.pc.toNat).toNat + (s.mem.read (s.pc.toNat + 1)).toNat

/-- R118, R130, R274: an unknown opcode, SYS among them, under every configuration: the Step goes on,
PC moves on by 2, a diagnostic with the address and the word is emitted, and nothing else changes
(but for the model's own draw fields, log entry 6). -/
def Obligations.UnknownOpcodeIsNoOp : Prop :=
  ∀ s : State, s.canFetch = true → isUnknown s.cfg s.wordAtPc = true →
    ∃ t, step s = .next t ∧
      t = { s with
        pc := s.pc + 2#16
        diags := s.diags ++ [⟨s.pc, s.wordAtPc⟩]
        envDraws := s.envDraws.tail
        drawCount := s.drawCount + 1 }

/-- R111, R112: a Step of a halted engine changes nothing and returns Halted, and so does every later
Step, whatever the host does, until a Load. The clause on `step`, which answers `next` with the state
itself because `Host.Outcome` has no Halted, is the model's choice (log entry 3); `stepWith` answers
Halted as R112 says. -/
def Obligations.HaltedUntilLoad : Prop :=
  ∀ (s : State) (ops : List HostOp) (d : Draws),
    s.fault = none → (s.loaded = false ∨ s.endMarker < (s.pc.toNat : Int)) →
    (∀ op ∈ ops, ∀ image, op ≠ .load image) →
    step s = .next s ∧
    (runOps ops s).stepWith d = (runOps ops s, .halted) ∧
    (runOps ops s).pc = s.pc ∧ (∀ r, (runOps ops s).getV r = s.getV r)

/-- R119, R120, R33, R307: a Step that raises a fatal fault returns it and records it; once a fault is
recorded, every Step returns it and changes nothing, whatever operations come in between, a Load among
them. The record is the spec's decision D27; of the rest of the state after a fault nothing is said
(log entries 4 and 5). -/
def Obligations.FatalFaultIsRecordedAndStays : Prop :=
  (∀ (s : State) (f : Fault) (d : Draws),
    s.fault = none → s.halted = false → step (s.supplyDraws d) = .fault f →
    (s.stepWith d).2 = .fatal f ∧ (s.stepWith d).1.fault = some f) ∧
  (∀ (s : State) (f : Fault) (ops : List HostOp) (d : Draws), s.fault = some f →
    (runOps ops s).fault = some f ∧
    step (runOps ops s) = .fault f ∧
    (runOps ops s).stepWith d = (runOps ops s, .fatal f))

/-- R115: in a state the invariant admits, the fetch of an engine that is not halted faults exactly
when PC is the last address of memory, and the fault names `MEM_SIZE` (the spec's inference). -/
def Obligations.FetchFaultsAtLastByte : Prop :=
  ∀ s : State, s.Inv → s.fault = none → s.halted = false →
    (s.pc.toNat + 1 = s.cfg.memSize → step s = .fault (.fetchOob s.pc s.cfg.memSize)) ∧
    (s.pc.toNat + 1 ≠ s.cfg.memSize → s.canFetch = true ∧ ∃ w, s.fetch = .ok w)

/-- R270, R275: every fatal fault an instruction raises is one of the four kinds that are not the
fetch's, raised by the instructions of R270's table and for its reason, and it records the address
of the instruction and an address out of range (kinds and codes: D43). -/
def Obligations.FaultCauses : Prop :=
  ∀ (i : Instr) (s : State) (f : Fault), exec i s = .fault f →
    (∃ a, f = .memReadOob s.pc0 a ∧ s.cfg.memSize ≤ a ∧
      ((∃ x y n, i = .drw x y n) ∨ ∃ x, i = .loadRegs x)) ∨
    (∃ a, f = .memWriteOob s.pc0 a ∧ s.cfg.memSize ≤ a ∧
      ((∃ x, i = .ldB x) ∨ ∃ x, i = .storeRegs x)) ∨
    (f = .stackOverflow s.pc0 ∧ s.cfg.stackDepth ≤ s.stack.length ∧ ∃ nnn, i = .call nnn) ∨
    (f = .stackUnderflow s.pc0 ∧ s.stack = [] ∧ i = .ret)

/-- R92, R275: no Step and no instruction ends in a refusal. -/
def Obligations.NothingIsRefused : Prop :=
  (∀ (i : Instr) (s : State) (r : Refusal), exec i s ≠ .refused r) ∧
  (∀ (s : State) (r : Refusal), step s ≠ .refused r)

/-- R122: after `n` Steps that run no jump, call, return, skip or key wait, PC is where it started
plus `2n`, if that does not pass 65535 (the spec's inference; modulo 65536, D25). -/
def Obligations.StraightRunAdvancesPc : Prop :=
  ∀ (n : Nat) (s t : State),
    (∀ k, k < n → ∃ u, core.run k s = .next u ∧ State.runsStraight u = true) →
    core.run n s = .next t →
    State.pc t = s.pc + BitVec.ofNat 16 (2 * n) ∧
    (s.pc.toNat + 2 * n < 65536 → (State.pc t).toNat = s.pc.toNat + 2 * n)

/-! ### Invariants -/

/-- The invariant (legal configuration, canonical memory inside its bounds, display size, stack bound,
end marker range: R300, R50, R29, R25, R32) is kept by every Step, from every state that has it. -/
def Obligations.StepKeepsInvariant : Prop :=
  ∀ s t : State, s.Inv → step s = .next t → t.Inv

/-- The same invariant is kept by any sequence of host operations, Steps that fault among them (R310;
what a fault leaves is free, log entry 5, within this invariant). -/
def Obligations.OperationsKeepInvariant : Prop :=
  ∀ (ops : List HostOp) (s : State), s.Inv → (runOps ops s).Inv

/-- The invariant holds right after reset. -/
def Obligations.ResetHasInvariant : Prop := State.reset.Inv

/-- R300, R301, R40, R52: a configuration is legal within R300's bounds, and Construct answers an engine
exactly for the legal ones, with the values of R40's table, the invariant, and every byte zero outside a
preloaded font. The bounds on `MEM_SIZE` from above, `STACK_DEPTH` and the font are D39, the sprite width
D33 (log entries 22 and 19); dirty false is D34 and the end marker D36 (log entry 22); the font, R52's
table written out digit by digit, is the spec's general knowledge (D16; log entry 18). -/
def Obligations.ConstructBuildsResetState : Prop :=
  ∀ c : Config,
    (c.valid = true ↔ 1 ≤ c.memSize ∧ c.memSize ≤ 65536 ∧ c.programStart < c.memSize ∧
      1 ≤ c.dispW ∧ 1 ≤ c.dispH ∧ c.spriteWidth = 8 ∧ 1 ≤ c.stackDepth ∧
      (c.fontPreload = true → c.fontBase + 80 ≤ c.memSize)) ∧
    (c.valid = false → State.construct c = .error .illegalConfiguration) ∧
    (c.valid = true → ∃ s, State.construct c = .ok s ∧ s.Inv ∧ s.cfg = c ∧
      (∀ r, s.getV r = 0#8) ∧ s.i = 0#16 ∧ s.pc.toNat = c.programStart ∧ s.stack = [] ∧
      s.dt = 0#8 ∧ s.st = 0#8 ∧ (∀ row col, s.disp.get row col = false) ∧ s.dirty = false ∧
      s.loaded = false ∧ s.endMarker = (c.programStart : Int) - 1 ∧ s.fault = none ∧
      (∀ a, (c.fontPreload = false ∨ a < c.fontBase ∨ c.fontBase + 80 ≤ a) → s.mem.read a = 0#8) ∧
      (c.fontPreload = true → ∀ d k, d < 16 → k < 5 →
        s.mem.read (c.fontBase + 5 * d + k) = ((
      [[0xF0#8, 0x90#8, 0x90#8, 0x90#8, 0xF0#8],
       [0x20#8, 0x60#8, 0x20#8, 0x20#8, 0x70#8],
       [0xF0#8, 0x10#8, 0xF0#8, 0x80#8, 0xF0#8],
       [0xF0#8, 0x10#8, 0xF0#8, 0x10#8, 0xF0#8],
       [0x90#8, 0x90#8, 0xF0#8, 0x10#8, 0x10#8],
       [0xF0#8, 0x80#8, 0xF0#8, 0x10#8, 0xF0#8],
       [0xF0#8, 0x80#8, 0xF0#8, 0x90#8, 0xF0#8],
       [0xF0#8, 0x10#8, 0x20#8, 0x40#8, 0x40#8]] ++
      [[0xF0#8, 0x90#8, 0xF0#8, 0x90#8, 0xF0#8],
       [0xF0#8, 0x90#8, 0xF0#8, 0x10#8, 0xF0#8],
       [0xF0#8, 0x90#8, 0xF0#8, 0x90#8, 0x90#8],
       [0xE0#8, 0x90#8, 0xE0#8, 0x90#8, 0xE0#8],
       [0xF0#8, 0x80#8, 0x80#8, 0x80#8, 0xF0#8],
       [0xE0#8, 0x90#8, 0x90#8, 0x90#8, 0xE0#8],
       [0xF0#8, 0x80#8, 0xF0#8, 0x80#8, 0xF0#8],
       [0xF0#8, 0x80#8, 0xF0#8, 0x80#8, 0x80#8]] : List (List Byte)).getD d []).getD k 0#8))

/-- R40 with the defaults of R11: the values the machine has right after reset. -/
def Obligations.ResetValues : Prop :=
  State.reset.pc = 0x200#16 ∧ State.reset.i = 0#16 ∧ (∀ r, State.reset.getV r = 0#8) ∧
  State.reset.stack = [] ∧ State.reset.dt = 0#8 ∧ State.reset.st = 0#8 ∧
  (∀ a, State.reset.mem.read a = 0#8) ∧ State.reset.disp.length = 32 ∧
  (∀ row col, State.reset.disp.get row col = false) ∧ State.reset.dirty = false ∧
  State.reset.loaded = false ∧ State.reset.endMarker = 0x1FF ∧ State.reset.fault = none

/-! ### Rules over all instructions -/

/-- R122, R24: an instruction that is no jump, call, return, skip or key wait leaves PC as the fetch
left it. -/
def Obligations.OnlyControlWritesPc : Prop :=
  ∀ (i : Instr) (s t : State), exec i s = .next t → writesPc i = false → t.pc = s.pc

/-- R220: the display has `DISP_H` rows and `DISP_W` columns, and only CLS and DRW write it: no other
instruction does, and no host operation that is not a Step. -/
def Obligations.OnlyClsAndDrwWriteDisplay : Prop :=
  (∀ s : State, s.Inv → s.disp.length = s.cfg.dispH ∧ ∀ row ∈ s.disp, row.length = s.cfg.dispW) ∧
  (∀ (i : Instr) (s t : State), exec i s = .next t → writesDisplay i = false → t.disp = s.disp) ∧
  (∀ (op : HostOp) (s : State), (∀ d, op ≠ .step d) → (transact op s).1.disp = s.disp)

/-- R54: an instruction other than LD B,Vx and LD [I],Vx leaves every byte of memory as it was. R26:
one other than CALL and RET leaves the call stack as it was (the spec's decision D23). R23: one other
than LD I, ADD I, LD F, LD [I],Vx and LD Vx,[I] leaves I as it was. -/
def Obligations.OnlyTheirOwnWriteMemoryStackIndex : Prop :=
  ∀ (i : Instr) (s t : State), exec i s = .next t →
    (writesMemory i = false → ∀ a, t.mem.read a = s.mem.read a) ∧
    (usesStack i = false → t.stack = s.stack) ∧
    (writesIndex i = false → t.i = s.i)

/-- R36, R286, R39: no instruction changes the loaded flag, the end marker, the fault record or the
configuration; only LD DT,Vx writes DT and only LD ST,Vx writes ST. -/
def Obligations.InstructionsLeaveEngineStatus : Prop :=
  ∀ (i : Instr) (s t : State), exec i s = .next t →
    t.cfg = s.cfg ∧ t.loaded = s.loaded ∧ t.endMarker = s.endMarker ∧ t.fault = s.fault ∧
    ((∀ x, i ≠ .ldDtVx x) → t.dt = s.dt) ∧ ((∀ x, i ≠ .ldStVx x) → t.st = s.st)

/-- R30, R235: CLS sets the dirty flag, every change an instruction makes to the display leaves it set,
no instruction clears it, and none but CLS and DRW changes it; of the host operations that are not Steps
only AcknowledgeRedraw changes it, and it clears it and changes nothing else. -/
def Obligations.DirtySetByDrawingClearedByAcknowledge : Prop :=
  (∀ (i : Instr) (s t : State), exec i s = .next t →
    (i = .cls → t.dirty = true) ∧
    ((∃ r c, t.disp.get r c ≠ s.disp.get r c) → t.dirty = true) ∧
    (s.dirty = true → t.dirty = true) ∧
    (writesDisplay i = false → t.dirty = s.dirty)) ∧
  (∀ (op : HostOp) (s : State), (∀ d, op ≠ .step d) → op ≠ .acknowledgeRedraw →
    (transact op s).1.dirty = s.dirty) ∧
  (∀ s : State, (transact .acknowledgeRedraw s).1 = { s with dirty := false })

/-! ### Control transfer (41_control.md) -/

/-- R131: JP addr completes from every state, PC becomes the zero-extended address, nothing else
changes, and a target beyond the end marker halts the next Step without a fault: `step` then answers
`next` with the same state, which is how the model writes a halted Step (log entry 3). -/
def Obligations.JumpSetsPc : Prop :=
  ∀ (s : State) (nnn : Addr12), ∃ t, exec (.jp nnn) s = .next t ∧
    t.pc.toNat = nnn.toNat ∧ TouchesOnly { pc := true } s t ∧
    (s.fault = none → s.endMarker < (nnn.toNat : Int) → step t = .next t)

/-- R134: JP V0, addr completes from every state; PC becomes the address plus V0, or plus Vx under
`JUMP_OFFSET_REG = VX`, and nothing else changes (general knowledge: D4, D14; log entry 18). -/
def Obligations.OffsetJumpSetsPc : Prop :=
  ∀ (s : State) (nnn : Addr12), ∃ t, exec (.jpV0 nnn) s = .next t ∧
    (s.cfg.jumpOffsetReg = .v0 → t.pc.toNat = nnn.toNat + (s.getV 0#4).toNat) ∧
    (s.cfg.jumpOffsetReg = .vx →
      t.pc.toNat = nnn.toNat + (s.getV (BitVec.ofNat 4 (nnn.toNat / 256))).toNat) ∧
    TouchesOnly { pc := true } s t

/-- R132: CALL addr, with room on the stack, completes: the advanced PC is pushed and PC becomes the
address. With `STACK_DEPTH` entries on the stack it is the fatal fault STACK_OVERFLOW at its own
address. Nothing else changes. -/
def Obligations.CallPushesAndJumps : Prop :=
  ∀ (s : State) (nnn : Addr12),
    (s.stack.length < s.cfg.stackDepth → ∃ t, exec (.call nnn) s = .next t ∧
      t.stack = s.stack ++ [s.pc] ∧ t.pc.toNat = nnn.toNat ∧
      TouchesOnly { pc := true, stack := true } s t) ∧
    (s.stack.length = s.cfg.stackDepth → exec (.call nnn) s = .fault (.stackOverflow (s.pc - 2#16)))

/-- R133: RET pops the stack into PC and changes nothing else; with an empty stack it is the fatal
fault STACK_UNDERFLOW at its own address. -/
def Obligations.ReturnPopsPc : Prop :=
  ∀ s : State,
    (∀ (l : List Word) (w : Word), s.stack = l ++ [w] → ∃ t, exec .ret s = .next t ∧
      t.pc = w ∧ t.stack = l ∧ TouchesOnly { pc := true, stack := true } s t) ∧
    (s.stack = [] → exec .ret s = .fault (.stackUnderflow (s.pc - 2#16)))

/-- R130, R118: SYS addr completes from every state: a diagnostic with its address and its word, and
nothing else (the unknown opcode is the spec's decision D7; log entry 9). -/
def Obligations.SysEmitsDiagnostic : Prop :=
  ∀ (s : State) (nnn : Addr12), ∃ t, exec (.sys nnn) s = .next t ∧
    t.diags = s.diags ++ [⟨s.pc - 2#16, BitVec.ofNat 16 nnn.toNat⟩] ∧
    TouchesOnly { diags := true } s t

/-! ### Skips (42_skip.md) -/

/-- R150 to R154: SE and SNE complete from every state; PC moves on by 2 more, modulo 65536 (D25),
when the comparison holds, and nothing else changes. -/
def Obligations.SkipsMovePc : Prop :=
  ∀ (s : State) (x y : Reg) (nn : Byte),
    (∃ t, exec (.seByte x nn) s = .next t ∧ TouchesOnly { pc := true } s t ∧
      t.pc = if s.getV x = nn then s.pc + 2#16 else s.pc) ∧
    (∃ t, exec (.sneByte x nn) s = .next t ∧ TouchesOnly { pc := true } s t ∧
      t.pc = if s.getV x = nn then s.pc else s.pc + 2#16) ∧
    (∃ t, exec (.seReg x y) s = .next t ∧ TouchesOnly { pc := true } s t ∧
      t.pc = if s.getV x = s.getV y then s.pc + 2#16 else s.pc) ∧
    (∃ t, exec (.sneReg x y) s = .next t ∧ TouchesOnly { pc := true } s t ∧
      t.pc = if s.getV x = s.getV y then s.pc else s.pc + 2#16)

/-- R255, R256: SKP and SKNP complete from every state; the key is the low nibble of Vx, and PC moves
on by 2 more when it is held, or is not held, in the Keys drawn for the Step (any value: D19; general
knowledge: log entry 20). -/
def Obligations.KeySkipsMovePc : Prop :=
  ∀ (s : State) (x : Reg),
    (∃ t, exec (.skp x) s = .next t ∧ TouchesOnly { pc := true } s t ∧
      t.pc = if s.draws.keys.toNat / 2 ^ ((s.getV x).toNat % 16) % 2 = 1 then s.pc + 2#16 else s.pc) ∧
    (∃ t, exec (.sknp x) s = .next t ∧ TouchesOnly { pc := true } s t ∧
      t.pc = if s.draws.keys.toNat / 2 ^ ((s.getV x).toNat % 16) % 2 = 1 then s.pc else s.pc + 2#16)

/-! ### Registers and arithmetic (43_alu.md) -/

/-- R167, R169: LD Vx, byte and LD Vx, Vy complete from every state, write Vx and nothing else. -/
def Obligations.LoadsWriteOneRegister : Prop :=
  ∀ (s : State) (x y : Reg) (nn : Byte),
    (∃ t, exec (.ldByte x nn) s = .next t ∧ t.getV x = nn ∧ TouchesOnly { regs := [x] } s t) ∧
    (∃ t, exec (.ldReg x y) s = .next t ∧ t.getV x = s.getV y ∧ TouchesOnly { regs := [x] } s t)

/-- R168: ADD Vx, byte completes from every state, adds modulo 256 and writes no carry: only Vx
changes (the spec's decision D8; log entry 17). -/
def Obligations.AddByteWritesNoCarry : Prop :=
  ∀ (s : State) (x : Reg) (nn : Byte), ∃ t, exec (.addByte x nn) s = .next t ∧
    (t.getV x).toNat = ((s.getV x).toNat + nn.toNat) % 256 ∧ TouchesOnly { regs := [x] } s t

/-- R170 to R172: OR, AND and XOR complete from every state, bit by bit; VF ends 0 when
`LOGIC_RESETS_VF`, Vx being VF included, and otherwise only Vx changes (general knowledge: D12; log
entry 17). -/
def Obligations.LogicResults : Prop :=
  ∀ (s : State) (x y : Reg),
    (∃ t, exec (.orReg x y) s = .next t ∧ TouchesOnly { regs := [x, 15#4] } s t ∧
      (s.cfg.logicResetsVF = true → t.getV 15#4 = 0#8) ∧
      (s.cfg.logicResetsVF = false → x ≠ 15#4 → t.getV 15#4 = s.getV 15#4) ∧
      (x ≠ 15#4 ∨ s.cfg.logicResetsVF = false → ∀ k, k < 8 →
        (t.getV x).getLsbD k = ((s.getV x).getLsbD k || (s.getV y).getLsbD k))) ∧
    (∃ t, exec (.andReg x y) s = .next t ∧ TouchesOnly { regs := [x, 15#4] } s t ∧
      (s.cfg.logicResetsVF = true → t.getV 15#4 = 0#8) ∧
      (s.cfg.logicResetsVF = false → x ≠ 15#4 → t.getV 15#4 = s.getV 15#4) ∧
      (x ≠ 15#4 ∨ s.cfg.logicResetsVF = false → ∀ k, k < 8 →
        (t.getV x).getLsbD k = ((s.getV x).getLsbD k && (s.getV y).getLsbD k))) ∧
    (∃ t, exec (.xorReg x y) s = .next t ∧ TouchesOnly { regs := [x, 15#4] } s t ∧
      (s.cfg.logicResetsVF = true → t.getV 15#4 = 0#8) ∧
      (s.cfg.logicResetsVF = false → x ≠ 15#4 → t.getV 15#4 = s.getV 15#4) ∧
      (x ≠ 15#4 ∨ s.cfg.logicResetsVF = false → ∀ k, k < 8 →
        (t.getV x).getLsbD k = ((s.getV x).getLsbD k ^^ (s.getV y).getLsbD k)))

/-- R173, R166: ADD Vx, Vy completes from every state: the sum modulo 256 in Vx, the carry in VF,
written last (VF = 0 without a carry is general knowledge, the order D9; log entry 17). -/
def Obligations.AddSetsCarry : Prop :=
  ∀ (s : State) (x y : Reg), ∃ t, exec (.addReg x y) s = .next t ∧
    (x ≠ 15#4 → (t.getV x).toNat = ((s.getV x).toNat + (s.getV y).toNat) % 256) ∧
    (t.getV 15#4).toNat = (if 255 < (s.getV x).toNat + (s.getV y).toNat then 1 else 0) ∧
    TouchesOnly { regs := [x, 15#4] } s t

/-- R174, R176, R166: SUB and SUBN complete from every state: the difference modulo 256 in Vx and the
not-borrow in VF, written last (polarity D10, order D9; log entry 17). -/
def Obligations.SubtractionsSetNotBorrow : Prop :=
  ∀ (s : State) (x y : Reg),
    (∃ t, exec (.subReg x y) s = .next t ∧
      (x ≠ 15#4 → (t.getV x).toNat = ((s.getV x).toNat + 256 - (s.getV y).toNat) % 256) ∧
      (t.getV 15#4).toNat = (if (s.getV y).toNat ≤ (s.getV x).toNat then 1 else 0) ∧
      TouchesOnly { regs := [x, 15#4] } s t) ∧
    (∃ t, exec (.subn x y) s = .next t ∧
      (x ≠ 15#4 → (t.getV x).toNat = ((s.getV y).toNat + 256 - (s.getV x).toNat) % 256) ∧
      (t.getV 15#4).toNat = (if (s.getV x).toNat ≤ (s.getV y).toNat then 1 else 0) ∧
      TouchesOnly { regs := [x, 15#4] } s t)

/-- R175, R177, R166: SHR and SHL complete from every state: Vy, or Vx under `SHIFT_SRC = VX`, shifted
by one into Vx, and the bit shifted out in VF, written last (general knowledge: D11, order D9; log
entry 17). -/
def Obligations.ShiftsSetShiftedOutBit : Prop :=
  ∀ (s : State) (x y z : Reg),
    (s.cfg.shiftSrc = .vy → z = y) → (s.cfg.shiftSrc = .vx → z = x) →
    (∃ t, exec (.shr x y) s = .next t ∧
      (x ≠ 15#4 → (t.getV x).toNat = (s.getV z).toNat / 2) ∧
      (t.getV 15#4).toNat = (s.getV z).toNat % 2 ∧ TouchesOnly { regs := [x, 15#4] } s t) ∧
    (∃ t, exec (.shl x y) s = .next t ∧
      (x ≠ 15#4 → (t.getV x).toNat = (s.getV z).toNat * 2 % 256) ∧
      (t.getV 15#4).toNat = (s.getV z).toNat / 128 ∧ TouchesOnly { regs := [x, 15#4] } s t)

/-- R178: RND completes from every state, for every drawn byte: Vx is the byte masked with NN, so no
bit outside NN is set, and nothing else changes (general knowledge: D21; log entry 20). -/
def Obligations.RandomIsMasked : Prop :=
  ∀ (s : State) (x : Reg) (nn : Byte), ∃ t, exec (.rnd x nn) s = .next t ∧
    t.getV x = s.draws.rand &&& nn ∧ (∀ k, nn.getLsbD k = false → (t.getV x).getLsbD k = false) ∧
    TouchesOnly { regs := [x] } s t

/-! ### Index register and memory (44_index_memory.md, 20_memory.md) -/

/-- R64: a read, which changes nothing, gives the byte last written there or the construction value,
and a write changes only its own byte. -/
def Obligations.MemoryReadsWhatWasWritten : Prop :=
  (∀ (s t : State) (a : Nat) (b : Byte), s.mem.wf = true → s.writeByte a b = .ok t →
    (∀ kind, t.readByte kind a = .ok b) ∧ (∀ a', a' ≠ a → t.mem.read a' = s.mem.read a') ∧
    t = { s with mem := t.mem }) ∧
  (∀ (c : Config) (s : State) (a : Nat), State.construct c = .ok s → c.fontPreload = false →
    s.mem.read a = 0#8)

/-- R56, R57: an access below `MEM_SIZE` succeeds, and one at or above it is the fatal fault of its
path, with the address not clamped or wrapped. -/
def Obligations.AccessesAreBoundsChecked : Prop :=
  ∀ (s : State) (kind : Nat → Fault) (a : Nat) (b : Byte),
    (a < s.cfg.memSize → s.readByte kind a = .ok (s.mem.read a) ∧ ∃ t, s.writeByte a b = .ok t) ∧
    (s.cfg.memSize ≤ a → s.readByte kind a = .error (kind a) ∧
      s.writeByte a b = .error (.memWriteOob (s.pc - 2#16) a))

/-- R201: LD I, addr completes from every state and only I changes, to the zero-extended address, which
is not checked. -/
def Obligations.LoadIndexSetsI : Prop :=
  ∀ (s : State) (nnn : Addr12), ∃ t, exec (.ldI nnn) s = .next t ∧
    t.i.toNat = nnn.toNat ∧ TouchesOnly { index := true } s t

/-- R202, R203: ADD I, Vx and LD F, Vx complete from every state and only I changes (modulo 65536, no
flag: D15; the glyph of the low nibble, five bytes each: D16, D17; log entry 18). -/
def Obligations.IndexArithmetic : Prop :=
  ∀ (s : State) (x : Reg),
    (∃ t, exec (.addI x) s = .next t ∧
      t.i.toNat = (s.i.toNat + (s.getV x).toNat) % 65536 ∧ TouchesOnly { index := true } s t) ∧
    (∃ t, exec (.ldF x) s = .next t ∧
      t.i.toNat = (s.cfg.fontBase + 5 * ((s.getV x).toNat % 16)) % 65536 ∧
      TouchesOnly { index := true } s t)

/-- R204, R205, R200: LD B, Vx with its three addresses in range completes: the decimal digits at I,
I + 1 and I + 2, hundreds first (general knowledge: D18; log entry 18), and every other byte and
register as before. With `I + 2` out of range it is MEM_WRITE_OOB at the first such address. -/
def Obligations.BcdStoresDigits : Prop :=
  ∀ (s : State) (x : Reg), s.mem.wf = true →
    (s.i.toNat + 2 < s.cfg.memSize → ∃ t, exec (.ldB x) s = .next t ∧
      (t.mem.read s.i.toNat).toNat = (s.getV x).toNat / 100 ∧
      (t.mem.read (s.i.toNat + 1)).toNat = (s.getV x).toNat / 10 % 10 ∧
      (t.mem.read (s.i.toNat + 2)).toNat = (s.getV x).toNat % 10 ∧
      TouchesOnly { addrs := [s.i.toNat, s.i.toNat + 1, s.i.toNat + 2] } s t) ∧
    (s.cfg.memSize ≤ s.i.toNat + 2 →
      exec (.ldB x) s = .fault (.memWriteOob (s.pc - 2#16) (max s.i.toNat s.cfg.memSize)))

/-- R206, R200: LD [I], Vx with its addresses in range completes: V0 to Vx at I to I + x, I then
advanced by x + 1 modulo 65536 under `LDI_INCREMENTS_I` (D13; log entry 18), every other byte and
every register as before. Otherwise it is MEM_WRITE_OOB at the first address out of range. -/
def Obligations.StoreRegistersWritesBlock : Prop :=
  ∀ (s : State) (x : Reg), s.mem.wf = true →
    (s.i.toNat + x.toNat < s.cfg.memSize → ∃ t, exec (.storeRegs x) s = .next t ∧
      (∀ k : Reg, k ≤ x → t.mem.read (s.i.toNat + k.toNat) = s.getV k) ∧
      t.i.toNat = (if s.cfg.ldiIncrementsI then (s.i.toNat + x.toNat + 1) % 65536 else s.i.toNat) ∧
      TouchesOnly { addrs := List.range' s.i.toNat (x.toNat + 1), index := true } s t) ∧
    (s.cfg.memSize ≤ s.i.toNat + x.toNat →
      exec (.storeRegs x) s = .fault (.memWriteOob (s.pc - 2#16) (max s.i.toNat s.cfg.memSize)))

/-- R207, R200: LD Vx, [I] with its addresses in range completes: the bytes at I to I + x in V0 to Vx,
every register above as before, no byte of memory changed, I as after LD [I], Vx (D13; log entry
18). Otherwise it is MEM_READ_OOB at the first address out of range. -/
def Obligations.LoadRegistersReadsBlock : Prop :=
  ∀ (s : State) (x : Reg),
    (s.i.toNat + x.toNat < s.cfg.memSize → ∃ t, exec (.loadRegs x) s = .next t ∧
      (∀ k : Reg, t.getV k = if k ≤ x then s.mem.read (s.i.toNat + k.toNat) else s.getV k) ∧
      t.i.toNat = (if s.cfg.ldiIncrementsI then (s.i.toNat + x.toNat + 1) % 65536 else s.i.toNat) ∧
      TouchesOnly { regs := (List.range (x.toNat + 1)).map (BitVec.ofNat 4), index := true } s t) ∧
    (s.cfg.memSize ≤ s.i.toNat + x.toNat →
      exec (.loadRegs x) s = .fault (.memReadOob (s.pc - 2#16) (max s.i.toNat s.cfg.memSize)))

/-! ### Display (45_display.md) -/

/-- R221: CLS completes from every state: every cell false, dirty set, the size kept, nothing else. -/
def Obligations.ClearEmptiesDisplay : Prop :=
  ∀ s : State, ∃ t, exec .cls s = .next t ∧
    (∀ r c, t.disp.get r c = false) ∧ t.disp.hasSize s.cfg.dispH s.cfg.dispW = true ∧
    t.dirty = true ∧ TouchesOnly { cells := true, dirty := true } s t

/-- R222 to R226, R229: DRW completes when each row byte it reads is in range (row r is read if r < N
and it is at most the first row beyond the display): each cell flips exactly where a 1-bit of the
sprite at I falls on the display, from the origin (Vx mod DISP_W, Vy mod DISP_H), clipped and not
wrapped; only the display, the dirty flag and VF change. The read before the clip test is D31, the
origin read before VF is cleared D30, N = 0 D32 (log entry 19). -/
def Obligations.DrawFlipsSpriteBits : Prop :=
  ∀ (s : State) (x y : Reg) (n : Nibble), s.Inv →
    (∀ r, r < n.toNat → (s.getV y).toNat % s.cfg.dispH + r ≤ s.cfg.dispH →
      s.i.toNat + r < s.cfg.memSize) →
    ∃ t, exec (.drw x y n) s = .next t ∧
      (∀ r c, t.disp.get r c = (s.disp.get r c ^^
        s.spriteBit ((s.getV x).toNat % s.cfg.dispW) ((s.getV y).toNat % s.cfg.dispH) n.toNat r c)) ∧
      t.disp.hasSize s.cfg.dispH s.cfg.dispW = true ∧
      TouchesOnly { regs := [15#4], cells := true, dirty := true } s t

/-- R227: after a DRW that completes VF is 1 if some pixel turned from on to off and 0 otherwise: a
flip from off to on never sets it, and one collision is enough. -/
def Obligations.DrawCollision : Prop :=
  ∀ (s t : State) (x y : Reg) (n : Nibble), s.Inv → exec (.drw x y n) s = .next t →
    (t.getV 15#4 = 1#8 ∨ t.getV 15#4 = 0#8) ∧
    (t.getV 15#4 = 1#8 ↔ ∃ r c, s.disp.get r c = true ∧ t.disp.get r c = false)

/-- R228: after a DRW that completes, dirty is set if it was, or if some 1-bit of the sprite fell on
the display, which is when some cell changed. DRW never clears it. -/
def Obligations.DrawDirty : Prop :=
  ∀ (s t : State) (x y : Reg) (n : Nibble), s.Inv → exec (.drw x y n) s = .next t →
    (t.dirty = true ↔ s.dirty = true ∨ ∃ r c,
      s.spriteBit ((s.getV x).toNat % s.cfg.dispW) ((s.getV y).toNat % s.cfg.dispH) n.toNat r c = true) ∧
    (t.dirty = true ↔ s.dirty = true ∨ ∃ r c, t.disp.get r c ≠ s.disp.get r c)

/-- R226, R225: when a row byte that DRW reads is out of range, DRW is the fatal fault MEM_READ_OOB at
the first such address (the byte of the first clipped row is read: the spec's decision D31; log
entry 19). -/
def Obligations.DrawReadFaults : Prop :=
  ∀ (s : State) (x y : Reg) (n : Nibble) (r : Nat),
    r < n.toNat → (s.getV y).toNat % s.cfg.dispH + r ≤ s.cfg.dispH →
    s.cfg.memSize ≤ s.i.toNat + r → (∀ k, k < r → s.i.toNat + k < s.cfg.memSize) →
    exec (.drw x y n) s = .fault (.memReadOob (s.pc - 2#16) (s.i.toNat + r))

/-- R231, C3: a second DRW of the same sprite at the same place restores every cell, and its VF is 1
exactly when the first draw turned some cell from off to on (the spec's inference). -/
def Obligations.DrawTwiceRestores : Prop :=
  ∀ (s t u : State) (x y : Reg) (n : Nibble), s.Inv → x ≠ 15#4 → y ≠ 15#4 →
    exec (.drw x y n) s = .next t → exec (.drw x y n) t = .next u →
    (∀ r c, u.disp.get r c = s.disp.get r c) ∧
    (u.getV 15#4 = 1#8 ↔ ∃ r c, s.disp.get r c = false ∧ t.disp.get r c = true)

/-- R233, R234: ShouldRedraw returns the dirty flag and Snapshot the display, `DISP_H` rows of `DISP_W`
cells in a state the invariant admits, and neither changes state. -/
def Obligations.RenderingContract : Prop :=
  ∀ s : State,
    transact .shouldRedraw s = (s, .redraw s.dirty) ∧
    transact .snapshot s = (s, .display s.disp) ∧
    (s.Inv → s.disp.length = s.cfg.dispH ∧ ∀ row ∈ s.disp, row.length = s.cfg.dispW)

/-! ### Timers and input (46_timers_input.md) -/

/-- R251 to R253: the three timer instructions complete from every state and write DT to Vx, Vx to DT,
and Vx to ST, and nothing else. -/
def Obligations.TimerMoves : Prop :=
  ∀ (s : State) (x : Reg),
    (∃ t, exec (.ldVxDt x) s = .next t ∧ t.getV x = s.dt ∧ TouchesOnly { regs := [x] } s t) ∧
    (∃ t, exec (.ldDtVx x) s = .next t ∧ t.dt = s.getV x ∧ TouchesOnly { dt := true } s t) ∧
    (∃ t, exec (.ldStVx x) s = .next t ∧ t.st = s.getV x ∧ TouchesOnly { st := true } s t)

/-- R254: LD Vx, K completes from every state: with no key event PC goes back by 2 and nothing else
changes, with key k Vx is k and nothing else changes (any event: D20; general knowledge: log entry
20). -/
def Obligations.KeyWaitRepeatsOrLoads : Prop :=
  ∀ (s : State) (x : Reg), ∃ t, exec (.ldVxK x) s = .next t ∧
    (s.draws.keyEvent = none → t.pc = s.pc - 2#16 ∧ TouchesOnly { pc := true } s t) ∧
    (∀ k : Nibble, s.draws.keyEvent = some k →
      (t.getV x).toNat = k.toNat ∧ TouchesOnly { regs := [x] } s t)

/-- R285: Tick takes one off each timer that is above zero and changes nothing else, whatever the
engine's status (the operation is the spec's decision D22; log entry 20). -/
def Obligations.TickDecrementsTimers : Prop :=
  ∀ s : State, (transact .tick s).2 = .done ∧
    (transact .tick s).1.dt.toNat = s.dt.toNat - 1 ∧ (transact .tick s).1.st.toNat = s.st.toNat - 1 ∧
    TouchesOnly { dt := true, st := true } s (transact .tick s).1

/-! ### Load (70_reset_and_hazards.md) -/

/-- R304: Load fails with IO on an I/O failure and with OUT_OF_BOUNDS when the image does not fit: a load
failure, not a fatal fault. -/
def Obligations.LoadFailures : Prop :=
  ∀ s : State,
    (transact (.load .ioFailure) s).2 = .loadFailed .io ∧
    (∀ l : List Byte, s.cfg.memSize < s.cfg.programStart + l.length →
      (transact (.load (.bytes l)) s).2 = .loadFailed .outOfBounds ∧
      (transact (.load (.bytes l)) s).1.fault = s.fault)

/-- R306: a Load that fails changes no state (the spec's decision D35; log entry 22). -/
def Obligations.FailedLoadChangesNothing : Prop :=
  ∀ (s : State) (image : Image) (e : LoadError),
    (transact (.load image) s).2 = .loadFailed e → (transact (.load image) s).1 = s

/-- R305, R307, R308: a Load that fits writes the image at PROGRAM_START, sets the end marker and the
loaded flag, and changes nothing else, PC and the fault record among it (D36, D37; log entry 22). -/
def Obligations.LoadSuccess : Prop :=
  ∀ (s : State) (l : List Byte), s.mem.wf = true →
    s.cfg.programStart + l.length ≤ s.cfg.memSize →
    ∃ t, transact (.load (.bytes l)) s = (t, .loaded) ∧
      (∀ k, k < l.length → t.mem.read (s.cfg.programStart + k) = l.getD k 0#8) ∧
      (∀ a, a < s.cfg.programStart ∨ s.cfg.programStart + l.length ≤ a →
        t.mem.read a = s.mem.read a) ∧
      t.endMarker = (s.cfg.programStart : Int) + (l.length : Int) - 1 ∧ t.loaded = true ∧
      t = { s with mem := t.mem, endMarker := t.endMarker, loaded := t.loaded }
end

