-- ==== Sys2Proof/Laws/Decode.lean ====
section
/-!
SUPPORT. The fields of the three word layouts, and what the decoder's dispatch answers.
-/

namespace Sys2Proof

/-- The fields of a word `class ++ NNN` (R81, R82). -/
theorem fieldsOf_wordNNN (c : BitVec 4) (nnn : Addr12) :
    fieldsOf (wordNNN c nnn) =
      ⟨c, nnn.extractLsb' 8 4, nnn.extractLsb' 4 4, nnn.extractLsb' 0 4, nnn.extractLsb' 0 8, nnn⟩ := by
  simp only [fieldsOf, wordNNN, Fields.mk.injEq]
  refine ⟨?_, ?_, ?_, ?_, ?_, ?_⟩ <;>
  · apply BitVec.eq_of_getLsbD_eq
    intro k hk
    simp only [BitVec.getLsbD_append, BitVec.getLsbD_extractLsb']
    interval_cases k <;> simp

/-- The fields of a word `class ++ X ++ NN` (R81, R82). -/
theorem fieldsOf_wordXNN (c : BitVec 4) (x : Reg) (nn : Byte) :
    fieldsOf (wordXNN c x nn) =
      ⟨c, x, nn.extractLsb' 4 4, nn.extractLsb' 0 4, nn, (x ++ nn : BitVec (4 + 8))⟩ := by
  simp only [fieldsOf, wordXNN, Fields.mk.injEq]
  refine ⟨?_, ?_, ?_, ?_, ?_, ?_⟩ <;>
  · apply BitVec.eq_of_getLsbD_eq
    intro k hk
    simp only [BitVec.getLsbD_append, BitVec.getLsbD_extractLsb']
    interval_cases k <;> simp

/-- The fields of a word `class ++ X ++ Y ++ N` (R81, R82). -/
theorem fieldsOf_wordXYN (c : BitVec 4) (x y : Reg) (n : Nibble) :
    fieldsOf (wordXYN c x y n) =
      ⟨c, x, y, n, (y ++ n : BitVec (4 + 4)), (x ++ y ++ n : BitVec (4 + 4 + 4))⟩ := by
  simp only [fieldsOf, wordXYN, Fields.mk.injEq]
  refine ⟨?_, ?_, ?_, ?_, ?_, ?_⟩ <;>
  · apply BitVec.eq_of_getLsbD_eq
    intro k hk
    simp only [BitVec.getLsbD_append, BitVec.getLsbD_extractLsb']
    interval_cases k <;> simp

/-- NN is the low byte of NNN (R81). -/
theorem fieldsOf_nnn_low (w : Word) : (fieldsOf w).nnn.extractLsb' 0 8 = (fieldsOf w).nn := by
  apply BitVec.eq_of_getLsbD_eq
  intro k hk
  simp only [fieldsOf, BitVec.getLsbD_extractLsb']
  interval_cases k <;> simp

/-- Clearing the bits class 0x0 ignores under `LOW_BYTE` (R87). -/
theorem and_class0 (w : Word) : w &&& 0xF0FF#16 = wordXNN (fieldsOf w).cls 0#4 (fieldsOf w).nn := by
  apply BitVec.eq_of_getLsbD_eq
  intro k hk
  simp only [wordXNN, fieldsOf, BitVec.getLsbD_append, BitVec.getLsbD_extractLsb']
  interval_cases k <;> simp

/-- Clearing the bits classes 0x5 and 0x9 ignore under `IGNORE_N` (R88). -/
theorem and_class59 (w : Word) :
    w &&& 0xFFF0#16 = wordXYN (fieldsOf w).cls (fieldsOf w).x (fieldsOf w).y 0#4 := by
  apply BitVec.eq_of_getLsbD_eq
  intro k hk
  simp only [wordXYN, fieldsOf, BitVec.getLsbD_append, BitVec.getLsbD_extractLsb']
  interval_cases k <;> simp

/-- What the decoder answers is what the dispatch answers, and the profile has it (R89, R90). -/
theorem decode_ok {c : Config} {w : Word} {i : Instr} (h : decode c w = .ok i) :
    decodeFull c w = .ok i ∧ c.opset.admits i = true := by
  simp only [decode] at h
  split at h
  · split at h
    · cases h; exact ⟨by assumption, by assumption⟩
    · cases h
  · cases h

/-- The two bytes of a word are the word again (R58). -/
theorem wordOfBytes_bytesOfWord (w : Word) : wordOfBytes (highByte w) (lowByte w) = w := by
  apply BitVec.eq_of_getLsbD_eq
  intro k hk
  simp only [wordOfBytes, highByte, lowByte, BitVec.getLsbD_append, BitVec.getLsbD_extractLsb']
  interval_cases k <;> simp

/-- Decoding from bytes is decoding the word (R58, R80). -/
theorem decodeBytes_bytesOfWord (c : Config) (w : Word) (rest : List Byte) :
    decodeBytes c (bytesOfWord w ++ rest) = (decode c w).map fun i => (i, rest) := by
  simp only [bytesOfWord, List.cons_append, List.nil_append, decodeBytes, wordOfBytes_bytesOfWord]
  cases decode c w <;> rfl

end Sys2Proof
end

