-- ==== Sys2Proof/Laws/Memory.lean ====
section
/-!
SUPPORT. Memory: read after write, and every operation keeps the canonical form.
-/

namespace Sys2Proof.Machine

@[simp] theorem Memory.read_nil (a : Nat) : Memory.read [] a = Memory.unlisted := rfl

/-- A higher floor is a stronger form. -/
theorem Memory.wfFrom_mono {m : Memory} {lo hi : Nat} (h : Memory.wfFrom hi m = true) (hle : lo ≤ hi) :
    Memory.wfFrom lo m = true := by
  cases m with
  | nil => rfl
  | cons c m =>
    simp only [Memory.wfFrom, Bool.and_eq_true, decide_eq_true_eq] at h ⊢
    exact ⟨⟨le_trans hle h.1.1, h.1.2⟩, h.2⟩

/-- Below the floor nothing is listed. -/
theorem Memory.read_below {m : Memory} {lo a : Nat} (h : Memory.wfFrom lo m = true) (ha : a < lo) :
    m.read a = Memory.unlisted := by
  induction m generalizing lo with
  | nil => rfl
  | cons c m ih =>
    simp only [Memory.wfFrom, Bool.and_eq_true, decide_eq_true_eq] at h
    have hne : a ≠ c.1 := by omega
    simp only [Memory.read, if_neg hne]
    exact ih h.2 (by omega)

/-- R64: a read gives the byte written there, and every other byte is as before. -/
theorem Memory.read_writeFrom {m : Memory} {lo : Nat} (h : Memory.wfFrom lo m = true) (a x : Nat) (b : Byte) :
    (m.write a b).read x = if x = a then b else m.read x := by
  induction m generalizing lo with
  | nil => by_cases hb : b = Memory.unlisted <;> by_cases hx : x = a <;> simp [Memory.write, Memory.read, hb, hx]
  | cons c m ih =>
    obtain ⟨k, v⟩ := c
    simp only [Memory.wfFrom, Bool.and_eq_true, decide_eq_true_eq] at h
    by_cases hak : a < k
    · by_cases hb : b = Memory.unlisted
      · by_cases hx : x = a
        · have : a ≠ k := by omega
          simp [Memory.write, Memory.read, hak, hb, hx, this, Memory.read_below h.2 (by omega : a < k + 1)]
        · simp [Memory.write, Memory.read, hak, hb, hx]
      · by_cases hx : x = a <;> simp [Memory.write, Memory.read, hak, hb, hx]
    · by_cases hk : a = k
      · subst hk
        by_cases hb : b = Memory.unlisted
        · by_cases hx : x = a
          · simp [Memory.write, hb, hx, Memory.read_below h.2 (by omega : a < a + 1)]
          · simp [Memory.write, Memory.read, hb, hx]
        · by_cases hx : x = a <;> simp [Memory.write, Memory.read, hb, hx]
      · by_cases hx : x = k
        · have : k ≠ a := fun e => hk e.symm
          simp [Memory.write, Memory.read, hak, hk, hx, this]
        · simp [Memory.write, Memory.read, hak, hk, hx, ih h.2]

theorem Memory.read_write {m : Memory} (h : m.wf = true) (a x : Nat) (b : Byte) :
    (m.write a b).read x = if x = a then b else m.read x := Memory.read_writeFrom h a x b

/-- A write keeps the canonical form from any floor that its address respects. -/
theorem Memory.wfFrom_write {m : Memory} {lo a : Nat} (h : Memory.wfFrom lo m = true) (ha : lo ≤ a) (b : Byte) :
    Memory.wfFrom lo (m.write a b) = true := by
  induction m generalizing lo with
  | nil => by_cases hb : b = Memory.unlisted <;> simp [Memory.write, Memory.wfFrom, hb, ha]
  | cons c m ih =>
    obtain ⟨k, v⟩ := c
    simp only [Memory.wfFrom, Bool.and_eq_true, decide_eq_true_eq] at h
    by_cases hak : a < k
    · by_cases hb : b = Memory.unlisted
      · simp [Memory.write, Memory.wfFrom, hak, hb, h]
      · have hk : a + 1 ≤ k := hak
        simpa [Memory.write, Memory.wfFrom, hak, hb, hk, ha] using ⟨by simpa using h.1.2, h.2⟩
    · by_cases hk : a = k
      · subst hk
        by_cases hb : b = Memory.unlisted
        · simpa [Memory.write, hb] using Memory.wfFrom_mono h.2 (by omega)
        · simpa [Memory.write, Memory.wfFrom, hb, ha] using h.2
      · simpa [Memory.write, Memory.wfFrom, hak, hk] using ⟨⟨h.1.1, by simpa using h.1.2⟩, ih h.2 (by omega)⟩

theorem Memory.wf_write {m : Memory} (h : m.wf = true) (a : Nat) (b : Byte) : (m.write a b).wf = true :=
  Memory.wfFrom_write h (Nat.zero_le a) b

theorem Memory.fits_write {m : Memory} {n a : Nat} (h : m.fits n = true) (ha : a < n) (b : Byte) :
    (m.write a b).fits n = true := by
  induction m with
  | nil => by_cases hb : b = Memory.unlisted <;> simp [Memory.write, Memory.fits, hb, ha]
  | cons c m ih =>
    obtain ⟨k, v⟩ := c
    have hk : k < n ∧ Memory.fits n m = true := by simpa [Memory.fits] using h
    have ih' := ih hk.2
    by_cases hak : a < k
    · by_cases hb : b = Memory.unlisted
      · simp [Memory.write, hak, hb, h]
      · simpa [Memory.write, hak, hb, Memory.fits, ha, hk.1] using hk.2
    · by_cases hk' : a = k
      · by_cases hb : b = Memory.unlisted
        · simpa [Memory.write, hk', hb] using hk.2
        · simpa [Memory.write, hk', hb, Memory.fits, hk.1] using hk.2
      · have : Memory.fits n (Memory.write m a b) = true := ih'
        simpa [Memory.write, hak, hk', Memory.fits, hk.1] using this

/-- Writing a run of bytes: each byte lands at its address and every other address is as before. -/
theorem Memory.read_writeAll {m : Memory} (h : m.wf = true) (a x : Nat) (bs : List Byte) :
    (m.writeAll a bs).read x = if a ≤ x ∧ x < a + bs.length then bs.getD (x - a) 0 else m.read x := by
  induction bs generalizing m a with
  | nil => simp [Memory.writeAll, show ¬(a ≤ x ∧ x < a) by omega]
  | cons b bs ih =>
    rw [Memory.writeAll, ih (Memory.wf_write h a b), Memory.read_write h]
    by_cases hx : x = a
    · subst hx; simp
    · by_cases h1 : a + 1 ≤ x ∧ x < a + 1 + bs.length
      · have h2 : a ≤ x ∧ x < a + (b :: bs).length := by simp; omega
        obtain ⟨d, rfl⟩ : ∃ d, x = a + 1 + d := ⟨x - (a + 1), by omega⟩
        rw [if_pos h1, if_pos h2, show a + 1 + d - (a + 1) = d by omega, show a + 1 + d - a = d + 1 by omega,
          List.getD_cons_succ]
      · rw [if_neg h1, if_neg hx, if_neg (by simp; omega)]

theorem Memory.read_writeAll_in {m : Memory} (h : m.wf = true) {a k : Nat} {bs : List Byte} (hk : k < bs.length) :
    (m.writeAll a bs).read (a + k) = bs.getD k 0 := by
  rw [Memory.read_writeAll h, if_pos (by omega), Nat.add_sub_cancel_left]

theorem Memory.read_writeAll_out {m : Memory} (h : m.wf = true) {a x : Nat} {bs : List Byte}
    (hx : x < a ∨ a + bs.length ≤ x) : (m.writeAll a bs).read x = m.read x := by
  rw [Memory.read_writeAll h, if_neg (by omega)]

theorem Memory.wf_writeAll {m : Memory} (h : m.wf = true) (a : Nat) (bs : List Byte) :
    (m.writeAll a bs).wf = true := by
  induction bs generalizing m a with
  | nil => exact h
  | cons b bs ih => exact ih (Memory.wf_write h a b) (a + 1)

theorem Memory.fits_writeAll {m : Memory} {n a : Nat} (h : m.fits n = true) (bs : List Byte)
    (ha : a + bs.length ≤ n) : (m.writeAll a bs).fits n = true := by
  induction bs generalizing m a with
  | nil => exact h
  | cons b bs ih =>
    simp only [List.length_cons] at ha
    exact ih (Memory.fits_write h (by omega) b) (by omega)

theorem Memory.wfFrom_tabulate (f : Nat → Byte) (n a : Nat) :
    Memory.wfFrom a (Memory.tabulate f n a) = true := by
  induction n generalizing a with
  | zero => rfl
  | succ n ih =>
    by_cases hb : f a = Memory.unlisted
    · simpa [Memory.tabulate, hb] using Memory.wfFrom_mono (ih (a + 1)) (Nat.le_succ a)
    · simpa [Memory.tabulate, hb, Memory.wfFrom] using ih (a + 1)

theorem Memory.wf_tabulate (f : Nat → Byte) (n : Nat) : (Memory.tabulate f n 0).wf = true :=
  Memory.wfFrom_tabulate f n 0

theorem Memory.fits_tabulate (f : Nat → Byte) (n a : Nat) :
    (Memory.tabulate f n a).fits (a + n) = true := by
  induction n generalizing a with
  | zero => rfl
  | succ n ih =>
    have h := ih (a + 1)
    rw [show a + 1 + n = a + (n + 1) by omega] at h
    by_cases hb : f a = Memory.unlisted
    · simpa [Memory.tabulate, hb] using h
    · simpa [Memory.tabulate, hb, Memory.fits] using h

theorem Memory.read_tabulate (f : Nat → Byte) (n a x : Nat) :
    (Memory.tabulate f n a).read x = if a ≤ x ∧ x < a + n then f x else Memory.unlisted := by
  induction n generalizing a with
  | zero => simp [Memory.tabulate, show ¬(a ≤ x ∧ x < a) by omega]
  | succ n ih =>
    by_cases hx : x = a
    · subst hx
      by_cases hb : f x = Memory.unlisted
      · simp [Memory.tabulate, hb, ih]
      · simp [Memory.tabulate, hb, Memory.read]
    · have e : (a + 1 ≤ x ∧ x < a + 1 + n) = (a ≤ x ∧ x < a + (n + 1)) := propext (by omega)
      by_cases hb : f a = Memory.unlisted
      · rw [Memory.tabulate, if_pos hb, ih]; simp only [e]
      · rw [Memory.tabulate, if_neg hb, Memory.read, if_neg hx, ih]; simp only [e]

/-- Canonical memories that read the same everywhere are the same data. -/
theorem Memory.eq_of_read_from {m m' : Memory} {lo : Nat} (h : Memory.wfFrom lo m = true)
    (h' : Memory.wfFrom lo m' = true) (e : ∀ a, m.read a = m'.read a) : m = m' := by
  induction m generalizing lo m' with
  | nil =>
    cases m' with
    | nil => rfl
    | cons c m' =>
      simp only [Memory.wfFrom, Bool.and_eq_true, bne_iff_ne, ne_eq] at h'
      have := e c.1
      simp only [Memory.read, if_true] at this
      exact absurd this.symm h'.1.2
  | cons c m ih =>
    obtain ⟨k, v⟩ := c
    simp only [Memory.wfFrom, Bool.and_eq_true, decide_eq_true_eq, bne_iff_ne, ne_eq] at h
    cases m' with
    | nil =>
      have := e k
      simp only [Memory.read, if_true] at this
      exact absurd this h.1.2
    | cons c' m' =>
      obtain ⟨k', v'⟩ := c'
      simp only [Memory.wfFrom, Bool.and_eq_true, decide_eq_true_eq, bne_iff_ne, ne_eq] at h'
      have hk : k = k' := by
        rcases Nat.lt_trichotomy k k' with hlt | heq | hgt
        · have := e k
          simp only [Memory.read, if_true, if_neg (by omega : ¬k = k')] at this
          rw [Memory.read_below h'.2 (by omega)] at this
          exact absurd this h.1.2
        · exact heq
        · have := e k'
          simp only [Memory.read, if_true, if_neg (by omega : ¬k' = k)] at this
          rw [Memory.read_below h.2 (by omega)] at this
          exact absurd this.symm h'.1.2
      subst hk
      have hv : v = v' := by simpa [Memory.read] using e k
      subst hv
      refine congrArg _ (ih h.2 h'.2 fun a => ?_)
      by_cases ha : a = k
      · rw [ha, Memory.read_below h.2 (by omega), Memory.read_below h'.2 (by omega)]
      · simpa [Memory.read, ha] using e a

theorem Memory.eq_of_read {m m' : Memory} (h : m.wf = true) (h' : m'.wf = true)
    (e : ∀ a, m.read a = m'.read a) : m = m' := Memory.eq_of_read_from h h' e

end Sys2Proof.Machine
end

