-- ==== Sys2Proof/Laws/State.lean ====
section
/-!
SUPPORT. One lemma per field per update of State, all by rfl, and reading a register after an update.
-/

namespace Sys2Proof.Machine

@[simp] theorem State.setV_cfg (s : State) (x : Reg) (b : Byte) : (s.setV x b).cfg = s.cfg := rfl
@[simp] theorem State.setV_i (s : State) (x : Reg) (b : Byte) : (s.setV x b).i = s.i := rfl
@[simp] theorem State.setV_pc (s : State) (x : Reg) (b : Byte) : (s.setV x b).pc = s.pc := rfl
@[simp] theorem State.setV_stack (s : State) (x : Reg) (b : Byte) : (s.setV x b).stack = s.stack := rfl
@[simp] theorem State.setV_dt (s : State) (x : Reg) (b : Byte) : (s.setV x b).dt = s.dt := rfl
@[simp] theorem State.setV_st (s : State) (x : Reg) (b : Byte) : (s.setV x b).st = s.st := rfl
@[simp] theorem State.setV_mem (s : State) (x : Reg) (b : Byte) : (s.setV x b).mem = s.mem := rfl
@[simp] theorem State.setV_disp (s : State) (x : Reg) (b : Byte) : (s.setV x b).disp = s.disp := rfl
@[simp] theorem State.setV_dirty (s : State) (x : Reg) (b : Byte) : (s.setV x b).dirty = s.dirty := rfl
@[simp] theorem State.setV_loaded (s : State) (x : Reg) (b : Byte) : (s.setV x b).loaded = s.loaded := rfl
@[simp] theorem State.setV_endMarker (s : State) (x : Reg) (b : Byte) : (s.setV x b).endMarker = s.endMarker := rfl
@[simp] theorem State.setV_fault (s : State) (x : Reg) (b : Byte) : (s.setV x b).fault = s.fault := rfl
@[simp] theorem State.setV_envDraws (s : State) (x : Reg) (b : Byte) : (s.setV x b).envDraws = s.envDraws := rfl
@[simp] theorem State.setV_drawCount (s : State) (x : Reg) (b : Byte) : (s.setV x b).drawCount = s.drawCount := rfl
@[simp] theorem State.setV_diags (s : State) (x : Reg) (b : Byte) : (s.setV x b).diags = s.diags := rfl

@[simp] theorem State.setI_cfg (s : State) (w : Word) : (s.setI w).cfg = s.cfg := rfl
@[simp] theorem State.setI_v (s : State) (w : Word) : (s.setI w).v = s.v := rfl
@[simp] theorem State.setI_i (s : State) (w : Word) : (s.setI w).i = w := rfl
@[simp] theorem State.setI_pc (s : State) (w : Word) : (s.setI w).pc = s.pc := rfl
@[simp] theorem State.setI_stack (s : State) (w : Word) : (s.setI w).stack = s.stack := rfl
@[simp] theorem State.setI_dt (s : State) (w : Word) : (s.setI w).dt = s.dt := rfl
@[simp] theorem State.setI_st (s : State) (w : Word) : (s.setI w).st = s.st := rfl
@[simp] theorem State.setI_mem (s : State) (w : Word) : (s.setI w).mem = s.mem := rfl
@[simp] theorem State.setI_disp (s : State) (w : Word) : (s.setI w).disp = s.disp := rfl
@[simp] theorem State.setI_dirty (s : State) (w : Word) : (s.setI w).dirty = s.dirty := rfl
@[simp] theorem State.setI_loaded (s : State) (w : Word) : (s.setI w).loaded = s.loaded := rfl
@[simp] theorem State.setI_endMarker (s : State) (w : Word) : (s.setI w).endMarker = s.endMarker := rfl
@[simp] theorem State.setI_fault (s : State) (w : Word) : (s.setI w).fault = s.fault := rfl
@[simp] theorem State.setI_envDraws (s : State) (w : Word) : (s.setI w).envDraws = s.envDraws := rfl
@[simp] theorem State.setI_drawCount (s : State) (w : Word) : (s.setI w).drawCount = s.drawCount := rfl
@[simp] theorem State.setI_diags (s : State) (w : Word) : (s.setI w).diags = s.diags := rfl
@[simp] theorem State.getV_setI (s : State) (w : Word) (r : Reg) : (s.setI w).getV r = s.getV r := rfl

@[simp] theorem State.setPc_cfg (s : State) (w : Word) : (s.setPc w).cfg = s.cfg := rfl
@[simp] theorem State.setPc_v (s : State) (w : Word) : (s.setPc w).v = s.v := rfl
@[simp] theorem State.setPc_i (s : State) (w : Word) : (s.setPc w).i = s.i := rfl
@[simp] theorem State.setPc_pc (s : State) (w : Word) : (s.setPc w).pc = w := rfl
@[simp] theorem State.setPc_stack (s : State) (w : Word) : (s.setPc w).stack = s.stack := rfl
@[simp] theorem State.setPc_dt (s : State) (w : Word) : (s.setPc w).dt = s.dt := rfl
@[simp] theorem State.setPc_st (s : State) (w : Word) : (s.setPc w).st = s.st := rfl
@[simp] theorem State.setPc_mem (s : State) (w : Word) : (s.setPc w).mem = s.mem := rfl
@[simp] theorem State.setPc_disp (s : State) (w : Word) : (s.setPc w).disp = s.disp := rfl
@[simp] theorem State.setPc_dirty (s : State) (w : Word) : (s.setPc w).dirty = s.dirty := rfl
@[simp] theorem State.setPc_loaded (s : State) (w : Word) : (s.setPc w).loaded = s.loaded := rfl
@[simp] theorem State.setPc_endMarker (s : State) (w : Word) : (s.setPc w).endMarker = s.endMarker := rfl
@[simp] theorem State.setPc_fault (s : State) (w : Word) : (s.setPc w).fault = s.fault := rfl
@[simp] theorem State.setPc_envDraws (s : State) (w : Word) : (s.setPc w).envDraws = s.envDraws := rfl
@[simp] theorem State.setPc_drawCount (s : State) (w : Word) : (s.setPc w).drawCount = s.drawCount := rfl
@[simp] theorem State.setPc_diags (s : State) (w : Word) : (s.setPc w).diags = s.diags := rfl
@[simp] theorem State.getV_setPc (s : State) (w : Word) (r : Reg) : (s.setPc w).getV r = s.getV r := rfl

@[simp] theorem State.setStack_cfg (s : State) (l : List Word) : (s.setStack l).cfg = s.cfg := rfl
@[simp] theorem State.setStack_v (s : State) (l : List Word) : (s.setStack l).v = s.v := rfl
@[simp] theorem State.setStack_i (s : State) (l : List Word) : (s.setStack l).i = s.i := rfl
@[simp] theorem State.setStack_pc (s : State) (l : List Word) : (s.setStack l).pc = s.pc := rfl
@[simp] theorem State.setStack_stack (s : State) (l : List Word) : (s.setStack l).stack = l := rfl
@[simp] theorem State.setStack_dt (s : State) (l : List Word) : (s.setStack l).dt = s.dt := rfl
@[simp] theorem State.setStack_st (s : State) (l : List Word) : (s.setStack l).st = s.st := rfl
@[simp] theorem State.setStack_mem (s : State) (l : List Word) : (s.setStack l).mem = s.mem := rfl
@[simp] theorem State.setStack_disp (s : State) (l : List Word) : (s.setStack l).disp = s.disp := rfl
@[simp] theorem State.setStack_dirty (s : State) (l : List Word) : (s.setStack l).dirty = s.dirty := rfl
@[simp] theorem State.setStack_loaded (s : State) (l : List Word) : (s.setStack l).loaded = s.loaded := rfl
@[simp] theorem State.setStack_endMarker (s : State) (l : List Word) : (s.setStack l).endMarker = s.endMarker := rfl
@[simp] theorem State.setStack_fault (s : State) (l : List Word) : (s.setStack l).fault = s.fault := rfl
@[simp] theorem State.setStack_envDraws (s : State) (l : List Word) : (s.setStack l).envDraws = s.envDraws := rfl
@[simp] theorem State.setStack_drawCount (s : State) (l : List Word) : (s.setStack l).drawCount = s.drawCount := rfl
@[simp] theorem State.setStack_diags (s : State) (l : List Word) : (s.setStack l).diags = s.diags := rfl
@[simp] theorem State.getV_setStack (s : State) (l : List Word) (r : Reg) : (s.setStack l).getV r = s.getV r := rfl

@[simp] theorem State.setDt_cfg (s : State) (b : Byte) : (s.setDt b).cfg = s.cfg := rfl
@[simp] theorem State.setDt_v (s : State) (b : Byte) : (s.setDt b).v = s.v := rfl
@[simp] theorem State.setDt_i (s : State) (b : Byte) : (s.setDt b).i = s.i := rfl
@[simp] theorem State.setDt_pc (s : State) (b : Byte) : (s.setDt b).pc = s.pc := rfl
@[simp] theorem State.setDt_stack (s : State) (b : Byte) : (s.setDt b).stack = s.stack := rfl
@[simp] theorem State.setDt_dt (s : State) (b : Byte) : (s.setDt b).dt = b := rfl
@[simp] theorem State.setDt_st (s : State) (b : Byte) : (s.setDt b).st = s.st := rfl
@[simp] theorem State.setDt_mem (s : State) (b : Byte) : (s.setDt b).mem = s.mem := rfl
@[simp] theorem State.setDt_disp (s : State) (b : Byte) : (s.setDt b).disp = s.disp := rfl
@[simp] theorem State.setDt_dirty (s : State) (b : Byte) : (s.setDt b).dirty = s.dirty := rfl
@[simp] theorem State.setDt_loaded (s : State) (b : Byte) : (s.setDt b).loaded = s.loaded := rfl
@[simp] theorem State.setDt_endMarker (s : State) (b : Byte) : (s.setDt b).endMarker = s.endMarker := rfl
@[simp] theorem State.setDt_fault (s : State) (b : Byte) : (s.setDt b).fault = s.fault := rfl
@[simp] theorem State.setDt_envDraws (s : State) (b : Byte) : (s.setDt b).envDraws = s.envDraws := rfl
@[simp] theorem State.setDt_drawCount (s : State) (b : Byte) : (s.setDt b).drawCount = s.drawCount := rfl
@[simp] theorem State.setDt_diags (s : State) (b : Byte) : (s.setDt b).diags = s.diags := rfl
@[simp] theorem State.getV_setDt (s : State) (b : Byte) (r : Reg) : (s.setDt b).getV r = s.getV r := rfl

@[simp] theorem State.setSt_cfg (s : State) (b : Byte) : (s.setSt b).cfg = s.cfg := rfl
@[simp] theorem State.setSt_v (s : State) (b : Byte) : (s.setSt b).v = s.v := rfl
@[simp] theorem State.setSt_i (s : State) (b : Byte) : (s.setSt b).i = s.i := rfl
@[simp] theorem State.setSt_pc (s : State) (b : Byte) : (s.setSt b).pc = s.pc := rfl
@[simp] theorem State.setSt_stack (s : State) (b : Byte) : (s.setSt b).stack = s.stack := rfl
@[simp] theorem State.setSt_dt (s : State) (b : Byte) : (s.setSt b).dt = s.dt := rfl
@[simp] theorem State.setSt_st (s : State) (b : Byte) : (s.setSt b).st = b := rfl
@[simp] theorem State.setSt_mem (s : State) (b : Byte) : (s.setSt b).mem = s.mem := rfl
@[simp] theorem State.setSt_disp (s : State) (b : Byte) : (s.setSt b).disp = s.disp := rfl
@[simp] theorem State.setSt_dirty (s : State) (b : Byte) : (s.setSt b).dirty = s.dirty := rfl
@[simp] theorem State.setSt_loaded (s : State) (b : Byte) : (s.setSt b).loaded = s.loaded := rfl
@[simp] theorem State.setSt_endMarker (s : State) (b : Byte) : (s.setSt b).endMarker = s.endMarker := rfl
@[simp] theorem State.setSt_fault (s : State) (b : Byte) : (s.setSt b).fault = s.fault := rfl
@[simp] theorem State.setSt_envDraws (s : State) (b : Byte) : (s.setSt b).envDraws = s.envDraws := rfl
@[simp] theorem State.setSt_drawCount (s : State) (b : Byte) : (s.setSt b).drawCount = s.drawCount := rfl
@[simp] theorem State.setSt_diags (s : State) (b : Byte) : (s.setSt b).diags = s.diags := rfl
@[simp] theorem State.getV_setSt (s : State) (b : Byte) (r : Reg) : (s.setSt b).getV r = s.getV r := rfl

@[simp] theorem State.setMem_cfg (s : State) (m : Memory) : (s.setMem m).cfg = s.cfg := rfl
@[simp] theorem State.setMem_v (s : State) (m : Memory) : (s.setMem m).v = s.v := rfl
@[simp] theorem State.setMem_i (s : State) (m : Memory) : (s.setMem m).i = s.i := rfl
@[simp] theorem State.setMem_pc (s : State) (m : Memory) : (s.setMem m).pc = s.pc := rfl
@[simp] theorem State.setMem_stack (s : State) (m : Memory) : (s.setMem m).stack = s.stack := rfl
@[simp] theorem State.setMem_dt (s : State) (m : Memory) : (s.setMem m).dt = s.dt := rfl
@[simp] theorem State.setMem_st (s : State) (m : Memory) : (s.setMem m).st = s.st := rfl
@[simp] theorem State.setMem_mem (s : State) (m : Memory) : (s.setMem m).mem = m := rfl
@[simp] theorem State.setMem_disp (s : State) (m : Memory) : (s.setMem m).disp = s.disp := rfl
@[simp] theorem State.setMem_dirty (s : State) (m : Memory) : (s.setMem m).dirty = s.dirty := rfl
@[simp] theorem State.setMem_loaded (s : State) (m : Memory) : (s.setMem m).loaded = s.loaded := rfl
@[simp] theorem State.setMem_endMarker (s : State) (m : Memory) : (s.setMem m).endMarker = s.endMarker := rfl
@[simp] theorem State.setMem_fault (s : State) (m : Memory) : (s.setMem m).fault = s.fault := rfl
@[simp] theorem State.setMem_envDraws (s : State) (m : Memory) : (s.setMem m).envDraws = s.envDraws := rfl
@[simp] theorem State.setMem_drawCount (s : State) (m : Memory) : (s.setMem m).drawCount = s.drawCount := rfl
@[simp] theorem State.setMem_diags (s : State) (m : Memory) : (s.setMem m).diags = s.diags := rfl
@[simp] theorem State.getV_setMem (s : State) (m : Memory) (r : Reg) : (s.setMem m).getV r = s.getV r := rfl

@[simp] theorem State.setDisp_cfg (s : State) (g : Grid) : (s.setDisp g).cfg = s.cfg := rfl
@[simp] theorem State.setDisp_v (s : State) (g : Grid) : (s.setDisp g).v = s.v := rfl
@[simp] theorem State.setDisp_i (s : State) (g : Grid) : (s.setDisp g).i = s.i := rfl
@[simp] theorem State.setDisp_pc (s : State) (g : Grid) : (s.setDisp g).pc = s.pc := rfl
@[simp] theorem State.setDisp_stack (s : State) (g : Grid) : (s.setDisp g).stack = s.stack := rfl
@[simp] theorem State.setDisp_dt (s : State) (g : Grid) : (s.setDisp g).dt = s.dt := rfl
@[simp] theorem State.setDisp_st (s : State) (g : Grid) : (s.setDisp g).st = s.st := rfl
@[simp] theorem State.setDisp_mem (s : State) (g : Grid) : (s.setDisp g).mem = s.mem := rfl
@[simp] theorem State.setDisp_disp (s : State) (g : Grid) : (s.setDisp g).disp = g := rfl
@[simp] theorem State.setDisp_dirty (s : State) (g : Grid) : (s.setDisp g).dirty = s.dirty := rfl
@[simp] theorem State.setDisp_loaded (s : State) (g : Grid) : (s.setDisp g).loaded = s.loaded := rfl
@[simp] theorem State.setDisp_endMarker (s : State) (g : Grid) : (s.setDisp g).endMarker = s.endMarker := rfl
@[simp] theorem State.setDisp_fault (s : State) (g : Grid) : (s.setDisp g).fault = s.fault := rfl
@[simp] theorem State.setDisp_envDraws (s : State) (g : Grid) : (s.setDisp g).envDraws = s.envDraws := rfl
@[simp] theorem State.setDisp_drawCount (s : State) (g : Grid) : (s.setDisp g).drawCount = s.drawCount := rfl
@[simp] theorem State.setDisp_diags (s : State) (g : Grid) : (s.setDisp g).diags = s.diags := rfl
@[simp] theorem State.getV_setDisp (s : State) (g : Grid) (r : Reg) : (s.setDisp g).getV r = s.getV r := rfl

@[simp] theorem State.setDirty_cfg (s : State) (b : Bool) : (s.setDirty b).cfg = s.cfg := rfl
@[simp] theorem State.setDirty_v (s : State) (b : Bool) : (s.setDirty b).v = s.v := rfl
@[simp] theorem State.setDirty_i (s : State) (b : Bool) : (s.setDirty b).i = s.i := rfl
@[simp] theorem State.setDirty_pc (s : State) (b : Bool) : (s.setDirty b).pc = s.pc := rfl
@[simp] theorem State.setDirty_stack (s : State) (b : Bool) : (s.setDirty b).stack = s.stack := rfl
@[simp] theorem State.setDirty_dt (s : State) (b : Bool) : (s.setDirty b).dt = s.dt := rfl
@[simp] theorem State.setDirty_st (s : State) (b : Bool) : (s.setDirty b).st = s.st := rfl
@[simp] theorem State.setDirty_mem (s : State) (b : Bool) : (s.setDirty b).mem = s.mem := rfl
@[simp] theorem State.setDirty_disp (s : State) (b : Bool) : (s.setDirty b).disp = s.disp := rfl
@[simp] theorem State.setDirty_dirty (s : State) (b : Bool) : (s.setDirty b).dirty = b := rfl
@[simp] theorem State.setDirty_loaded (s : State) (b : Bool) : (s.setDirty b).loaded = s.loaded := rfl
@[simp] theorem State.setDirty_endMarker (s : State) (b : Bool) : (s.setDirty b).endMarker = s.endMarker := rfl
@[simp] theorem State.setDirty_fault (s : State) (b : Bool) : (s.setDirty b).fault = s.fault := rfl
@[simp] theorem State.setDirty_envDraws (s : State) (b : Bool) : (s.setDirty b).envDraws = s.envDraws := rfl
@[simp] theorem State.setDirty_drawCount (s : State) (b : Bool) : (s.setDirty b).drawCount = s.drawCount := rfl
@[simp] theorem State.setDirty_diags (s : State) (b : Bool) : (s.setDirty b).diags = s.diags := rfl
@[simp] theorem State.getV_setDirty (s : State) (b : Bool) (r : Reg) : (s.setDirty b).getV r = s.getV r := rfl

@[simp] theorem State.advancePc_cfg (s : State) : (s.advancePc).cfg = s.cfg := rfl
@[simp] theorem State.advancePc_v (s : State) : (s.advancePc).v = s.v := rfl
@[simp] theorem State.advancePc_i (s : State) : (s.advancePc).i = s.i := rfl
@[simp] theorem State.advancePc_pc (s : State) : (s.advancePc).pc = s.pc + 2#16 := rfl
@[simp] theorem State.advancePc_stack (s : State) : (s.advancePc).stack = s.stack := rfl
@[simp] theorem State.advancePc_dt (s : State) : (s.advancePc).dt = s.dt := rfl
@[simp] theorem State.advancePc_st (s : State) : (s.advancePc).st = s.st := rfl
@[simp] theorem State.advancePc_mem (s : State) : (s.advancePc).mem = s.mem := rfl
@[simp] theorem State.advancePc_disp (s : State) : (s.advancePc).disp = s.disp := rfl
@[simp] theorem State.advancePc_dirty (s : State) : (s.advancePc).dirty = s.dirty := rfl
@[simp] theorem State.advancePc_loaded (s : State) : (s.advancePc).loaded = s.loaded := rfl
@[simp] theorem State.advancePc_endMarker (s : State) : (s.advancePc).endMarker = s.endMarker := rfl
@[simp] theorem State.advancePc_fault (s : State) : (s.advancePc).fault = s.fault := rfl
@[simp] theorem State.advancePc_envDraws (s : State) : (s.advancePc).envDraws = s.envDraws := rfl
@[simp] theorem State.advancePc_drawCount (s : State) : (s.advancePc).drawCount = s.drawCount := rfl
@[simp] theorem State.advancePc_diags (s : State) : (s.advancePc).diags = s.diags := rfl
@[simp] theorem State.getV_advancePc (s : State) (r : Reg) : (s.advancePc).getV r = s.getV r := rfl

@[simp] theorem State.takeDraws_cfg (s : State) : (s.takeDraws).cfg = s.cfg := rfl
@[simp] theorem State.takeDraws_v (s : State) : (s.takeDraws).v = s.v := rfl
@[simp] theorem State.takeDraws_i (s : State) : (s.takeDraws).i = s.i := rfl
@[simp] theorem State.takeDraws_pc (s : State) : (s.takeDraws).pc = s.pc := rfl
@[simp] theorem State.takeDraws_stack (s : State) : (s.takeDraws).stack = s.stack := rfl
@[simp] theorem State.takeDraws_dt (s : State) : (s.takeDraws).dt = s.dt := rfl
@[simp] theorem State.takeDraws_st (s : State) : (s.takeDraws).st = s.st := rfl
@[simp] theorem State.takeDraws_mem (s : State) : (s.takeDraws).mem = s.mem := rfl
@[simp] theorem State.takeDraws_disp (s : State) : (s.takeDraws).disp = s.disp := rfl
@[simp] theorem State.takeDraws_dirty (s : State) : (s.takeDraws).dirty = s.dirty := rfl
@[simp] theorem State.takeDraws_loaded (s : State) : (s.takeDraws).loaded = s.loaded := rfl
@[simp] theorem State.takeDraws_endMarker (s : State) : (s.takeDraws).endMarker = s.endMarker := rfl
@[simp] theorem State.takeDraws_fault (s : State) : (s.takeDraws).fault = s.fault := rfl
@[simp] theorem State.takeDraws_envDraws (s : State) : (s.takeDraws).envDraws = s.envDraws.tail := rfl
@[simp] theorem State.takeDraws_drawCount (s : State) : (s.takeDraws).drawCount = s.drawCount + 1 := rfl
@[simp] theorem State.takeDraws_diags (s : State) : (s.takeDraws).diags = s.diags := rfl
@[simp] theorem State.getV_takeDraws (s : State) (r : Reg) : (s.takeDraws).getV r = s.getV r := rfl

@[simp] theorem State.supplyDraws_cfg (s : State) (d : Draws) : (s.supplyDraws d).cfg = s.cfg := rfl
@[simp] theorem State.supplyDraws_v (s : State) (d : Draws) : (s.supplyDraws d).v = s.v := rfl
@[simp] theorem State.supplyDraws_i (s : State) (d : Draws) : (s.supplyDraws d).i = s.i := rfl
@[simp] theorem State.supplyDraws_pc (s : State) (d : Draws) : (s.supplyDraws d).pc = s.pc := rfl
@[simp] theorem State.supplyDraws_stack (s : State) (d : Draws) : (s.supplyDraws d).stack = s.stack := rfl
@[simp] theorem State.supplyDraws_dt (s : State) (d : Draws) : (s.supplyDraws d).dt = s.dt := rfl
@[simp] theorem State.supplyDraws_st (s : State) (d : Draws) : (s.supplyDraws d).st = s.st := rfl
@[simp] theorem State.supplyDraws_mem (s : State) (d : Draws) : (s.supplyDraws d).mem = s.mem := rfl
@[simp] theorem State.supplyDraws_disp (s : State) (d : Draws) : (s.supplyDraws d).disp = s.disp := rfl
@[simp] theorem State.supplyDraws_dirty (s : State) (d : Draws) : (s.supplyDraws d).dirty = s.dirty := rfl
@[simp] theorem State.supplyDraws_loaded (s : State) (d : Draws) : (s.supplyDraws d).loaded = s.loaded := rfl
@[simp] theorem State.supplyDraws_endMarker (s : State) (d : Draws) : (s.supplyDraws d).endMarker = s.endMarker := rfl
@[simp] theorem State.supplyDraws_fault (s : State) (d : Draws) : (s.supplyDraws d).fault = s.fault := rfl
@[simp] theorem State.supplyDraws_envDraws (s : State) (d : Draws) : (s.supplyDraws d).envDraws = d :: s.envDraws := rfl
@[simp] theorem State.supplyDraws_drawCount (s : State) (d : Draws) : (s.supplyDraws d).drawCount = s.drawCount := rfl
@[simp] theorem State.supplyDraws_diags (s : State) (d : Draws) : (s.supplyDraws d).diags = s.diags := rfl
@[simp] theorem State.getV_supplyDraws (s : State) (d : Draws) (r : Reg) : (s.supplyDraws d).getV r = s.getV r := rfl

@[simp] theorem State.emitDiag_cfg (s : State) (d : Diag) : (s.emitDiag d).cfg = s.cfg := rfl
@[simp] theorem State.emitDiag_v (s : State) (d : Diag) : (s.emitDiag d).v = s.v := rfl
@[simp] theorem State.emitDiag_i (s : State) (d : Diag) : (s.emitDiag d).i = s.i := rfl
@[simp] theorem State.emitDiag_pc (s : State) (d : Diag) : (s.emitDiag d).pc = s.pc := rfl
@[simp] theorem State.emitDiag_stack (s : State) (d : Diag) : (s.emitDiag d).stack = s.stack := rfl
@[simp] theorem State.emitDiag_dt (s : State) (d : Diag) : (s.emitDiag d).dt = s.dt := rfl
@[simp] theorem State.emitDiag_st (s : State) (d : Diag) : (s.emitDiag d).st = s.st := rfl
@[simp] theorem State.emitDiag_mem (s : State) (d : Diag) : (s.emitDiag d).mem = s.mem := rfl
@[simp] theorem State.emitDiag_disp (s : State) (d : Diag) : (s.emitDiag d).disp = s.disp := rfl
@[simp] theorem State.emitDiag_dirty (s : State) (d : Diag) : (s.emitDiag d).dirty = s.dirty := rfl
@[simp] theorem State.emitDiag_loaded (s : State) (d : Diag) : (s.emitDiag d).loaded = s.loaded := rfl
@[simp] theorem State.emitDiag_endMarker (s : State) (d : Diag) : (s.emitDiag d).endMarker = s.endMarker := rfl
@[simp] theorem State.emitDiag_fault (s : State) (d : Diag) : (s.emitDiag d).fault = s.fault := rfl
@[simp] theorem State.emitDiag_envDraws (s : State) (d : Diag) : (s.emitDiag d).envDraws = s.envDraws := rfl
@[simp] theorem State.emitDiag_drawCount (s : State) (d : Diag) : (s.emitDiag d).drawCount = s.drawCount := rfl
@[simp] theorem State.emitDiag_diags (s : State) (d : Diag) : (s.emitDiag d).diags = s.diags ++ [d] := rfl
@[simp] theorem State.getV_emitDiag (s : State) (d : Diag) (r : Reg) : (s.emitDiag d).getV r = s.getV r := rfl

@[simp] theorem State.unknownOpcode_cfg (s : State) (w : Word) : (s.unknownOpcode w).cfg = s.cfg := rfl
@[simp] theorem State.unknownOpcode_v (s : State) (w : Word) : (s.unknownOpcode w).v = s.v := rfl
@[simp] theorem State.unknownOpcode_i (s : State) (w : Word) : (s.unknownOpcode w).i = s.i := rfl
@[simp] theorem State.unknownOpcode_pc (s : State) (w : Word) : (s.unknownOpcode w).pc = s.pc := rfl
@[simp] theorem State.unknownOpcode_stack (s : State) (w : Word) : (s.unknownOpcode w).stack = s.stack := rfl
@[simp] theorem State.unknownOpcode_dt (s : State) (w : Word) : (s.unknownOpcode w).dt = s.dt := rfl
@[simp] theorem State.unknownOpcode_st (s : State) (w : Word) : (s.unknownOpcode w).st = s.st := rfl
@[simp] theorem State.unknownOpcode_mem (s : State) (w : Word) : (s.unknownOpcode w).mem = s.mem := rfl
@[simp] theorem State.unknownOpcode_disp (s : State) (w : Word) : (s.unknownOpcode w).disp = s.disp := rfl
@[simp] theorem State.unknownOpcode_dirty (s : State) (w : Word) : (s.unknownOpcode w).dirty = s.dirty := rfl
@[simp] theorem State.unknownOpcode_loaded (s : State) (w : Word) : (s.unknownOpcode w).loaded = s.loaded := rfl
@[simp] theorem State.unknownOpcode_endMarker (s : State) (w : Word) : (s.unknownOpcode w).endMarker = s.endMarker := rfl
@[simp] theorem State.unknownOpcode_fault (s : State) (w : Word) : (s.unknownOpcode w).fault = s.fault := rfl
@[simp] theorem State.unknownOpcode_envDraws (s : State) (w : Word) : (s.unknownOpcode w).envDraws = s.envDraws := rfl
@[simp] theorem State.unknownOpcode_drawCount (s : State) (w : Word) : (s.unknownOpcode w).drawCount = s.drawCount := rfl
@[simp] theorem State.unknownOpcode_diags (s : State) (w : Word) : (s.unknownOpcode w).diags = s.diags ++ [⟨s.pc0, w⟩] := rfl
@[simp] theorem State.getV_unknownOpcode (s : State) (w : Word) (r : Reg) : (s.unknownOpcode w).getV r = s.getV r := rfl

@[simp] theorem State.recordFatal_fault (s : State) (f : Fault) :
    (s.recordFatal f).fault = some f := rfl
@[simp] theorem State.recordFatal_cfg (s : State) (f : Fault) :
    (s.recordFatal f).cfg = s.cfg := rfl
@[simp] theorem State.recordFatal_envDraws (s : State) (f : Fault) :
    (s.recordFatal f).envDraws = s.envDraws := rfl
@[simp] theorem State.recordFatal_drawCount (s : State) (f : Fault) :
    (s.recordFatal f).drawCount = s.drawCount := rfl
@[simp] theorem State.recordFatal_diags (s : State) (f : Fault) :
    (s.recordFatal f).diags = s.diags := rfl
@[simp] theorem State.recordFatal_stack (s : State) (f : Fault) :
    (s.recordFatal f).stack = (Config.faultStack s.drawCount).take s.cfg.stackDepth := rfl
@[simp] theorem State.recordFatal_mem (s : State) (f : Fault) :
    (s.recordFatal f).mem = Memory.tabulate (Config.faultMem s.drawCount) s.cfg.memSize 0 := rfl
@[simp] theorem State.recordFatal_disp (s : State) (f : Fault) :
    (s.recordFatal f).disp = Grid.tabulate (Config.faultPixel s.drawCount) s.cfg.dispH s.cfg.dispW := rfl
@[simp] theorem State.recordFatal_endMarker (s : State) (f : Fault) :
    (s.recordFatal f).endMarker = (s.cfg.programStart : Int) - 1 + ((Config.faultEnd s.drawCount % (s.cfg.memSize - s.cfg.programStart + 1) : Nat) : Int) := rfl

@[simp] theorem State.zeroed_cfg (c : Config) : (State.zeroed c).cfg = c := rfl
@[simp] theorem State.zeroed_i (c : Config) : (State.zeroed c).i = 0x0000#16 := rfl
@[simp] theorem State.zeroed_pc (c : Config) : (State.zeroed c).pc = BitVec.ofNat 16 c.programStart := rfl
@[simp] theorem State.zeroed_stack (c : Config) : (State.zeroed c).stack = [] := rfl
@[simp] theorem State.zeroed_dt (c : Config) : (State.zeroed c).dt = 0x00#8 := rfl
@[simp] theorem State.zeroed_st (c : Config) : (State.zeroed c).st = 0x00#8 := rfl
@[simp] theorem State.zeroed_mem (c : Config) : (State.zeroed c).mem = [] := rfl
@[simp] theorem State.zeroed_disp (c : Config) : (State.zeroed c).disp = Grid.blank c.dispH c.dispW := rfl
@[simp] theorem State.zeroed_dirty (c : Config) : (State.zeroed c).dirty = false := rfl
@[simp] theorem State.zeroed_loaded (c : Config) : (State.zeroed c).loaded = false := rfl
@[simp] theorem State.zeroed_endMarker (c : Config) : (State.zeroed c).endMarker = (c.programStart : Int) - 1 := rfl
@[simp] theorem State.zeroed_fault (c : Config) : (State.zeroed c).fault = none := rfl
@[simp] theorem State.zeroed_envDraws (c : Config) : (State.zeroed c).envDraws = [] := rfl
@[simp] theorem State.zeroed_drawCount (c : Config) : (State.zeroed c).drawCount = 0 := rfl
@[simp] theorem State.zeroed_diags (c : Config) : (State.zeroed c).diags = [] := rfl

/-- Reading register `y` after writing register `x` (R20: no register is hardwired or an alias). -/
theorem State.getV_setV (s : State) (x y : Reg) (b : Byte) :
    (s.setV x b).getV y = if y = x then b else s.getV y := by
  simp [State.setV, State.getV, Vector.getElem_set, BitVec.toNat_inj, eq_comm]

@[simp] theorem State.getV_setV_same (s : State) (x : Reg) (b : Byte) : (s.setV x b).getV x = b := by
  simp [State.getV_setV]

@[simp] theorem State.getV_setV_ne (s : State) {x y : Reg} (b : Byte) (h : y ≠ x) :
    (s.setV x b).getV y = s.getV y := by
  simp [State.getV_setV, h]

@[simp] theorem State.getV_zeroed (c : Config) (r : Reg) : (State.zeroed c).getV r = 0x00#8 := by
  simp [State.getV, State.zeroed]

@[simp] theorem State.pc0_setV (s : State) (x : Reg) (b : Byte) : (s.setV x b).pc0 = s.pc0 := rfl

@[simp] theorem State.pc0_setMem (s : State) (m : Memory) : (s.setMem m).pc0 = s.pc0 := rfl

@[simp] theorem State.setMem_setMem (s : State) (m m' : Memory) : (s.setMem m).setMem m' = s.setMem m' := rfl

/-- PC already advanced: the executing instruction's address is the one fetched from (R114). -/
@[simp] theorem State.pc0_advancePc (s : State) : s.advancePc.pc0 = s.pc := by
  simp [State.pc0]

/-- Taking a Step's draws drops the ones handed over for it. -/
@[simp] theorem State.takeDraws_supplyDraws_envDraws (s : State) (d : Draws) :
    (s.supplyDraws d).takeDraws.envDraws = s.envDraws := rfl

/-- The draws of a Step are the ones handed over for it (R37). -/
@[simp] theorem State.draws_supplyDraws (s : State) (d : Draws) : (s.supplyDraws d).draws = d := rfl

end Sys2Proof.Machine
end

