-- ==== Sys2Proof/Laws/Ops.lean ====
section
/-!
SUPPORT. One lemma for each shared operation, saying once everything it can answer.
-/

namespace Sys2Proof.Machine

/-! ### Checked accesses -/

theorem State.readByte_ok (s : State) (kind : Nat → Fault) {a : Nat} (h : a < s.cfg.memSize) :
    s.readByte kind a = .ok (s.mem.read a) := by simp [State.readByte, h]

theorem State.readByte_error (s : State) (kind : Nat → Fault) {a : Nat} (h : s.cfg.memSize ≤ a) :
    s.readByte kind a = .error (kind a) := by simp [State.readByte, Nat.not_lt.mpr h]

theorem State.readByte_eq_ok {s : State} {kind : Nat → Fault} {a : Nat} {b : Byte}
    (h : s.readByte kind a = .ok b) : a < s.cfg.memSize ∧ b = s.mem.read a := by
  by_cases ha : a < s.cfg.memSize
  · rw [State.readByte_ok s kind ha] at h; cases h; exact ⟨ha, rfl⟩
  · rw [State.readByte_error s kind (Nat.not_lt.mp ha)] at h; cases h

theorem State.writeByte_ok (s : State) {a : Nat} (h : a < s.cfg.memSize) (b : Byte) :
    s.writeByte a b = .ok (s.setMem (s.mem.write a b)) := by simp [State.writeByte, h]

theorem State.writeByte_error (s : State) {a : Nat} (h : s.cfg.memSize ≤ a) (b : Byte) :
    s.writeByte a b = .error (.memWriteOob s.pc0 a) := by simp [State.writeByte, Nat.not_lt.mpr h]

/-- Storing a run of bytes in range writes all of them. -/
theorem State.storeBytes_ok (s : State) {a : Nat} {bs : List Byte}
    (h : bs = [] ∨ a + bs.length ≤ s.cfg.memSize) :
    s.storeBytes a bs = .ok (s.setMem (s.mem.writeAll a bs)) := by
  induction bs generalizing s a with
  | nil => rfl
  | cons b bs ih =>
    have hl : a + (bs.length + 1) ≤ s.cfg.memSize := by simpa using h
    have := ih (s.setMem (s.mem.write a b)) (a := a + 1) (Or.inr (by simp only [State.setMem_cfg]; omega))
    simpa [State.storeBytes, State.writeByte_ok s (show a < s.cfg.memSize by omega), Memory.writeAll] using this

/-- Storing a run of bytes that leaves memory faults at the first address out of range. -/
theorem State.storeBytes_error (s : State) {a : Nat} {bs : List Byte} (hb : bs ≠ [])
    (h : s.cfg.memSize < a + bs.length) :
    s.storeBytes a bs = .error (.memWriteOob s.pc0 (max a s.cfg.memSize)) := by
  induction bs generalizing s a with
  | nil => exact absurd rfl hb
  | cons b bs ih =>
    by_cases ha : a < s.cfg.memSize
    · have hl : s.cfg.memSize < a + (bs.length + 1) := by simpa using h
      have hne : bs ≠ [] := by rintro rfl; simp only [List.length_nil] at hl; omega
      have := ih (s.setMem (s.mem.write a b)) (a := a + 1) hne (by simp only [State.setMem_cfg]; omega)
      have h2 : max (a + 1) s.cfg.memSize = max a s.cfg.memSize := by omega
      simpa [State.storeBytes, State.writeByte_ok s ha, h2] using this
    · simp [State.storeBytes, State.writeByte_error s (Nat.not_lt.mp ha),
        show max a s.cfg.memSize = a by omega]

/-- Loading registers `k` to `k + n - 1` faults at the first address out of range. -/
theorem State.loadV_error (base : Nat) {n k : Nat} {s : State} (hn : 0 < n)
    (h : s.cfg.memSize < base + k + n) :
    State.loadV base n k s = .error (.memReadOob s.pc0 (max (base + k) s.cfg.memSize)) := by
  induction n generalizing k s with
  | zero => exact absurd hn (Nat.lt_irrefl 0)
  | succ n ih =>
    by_cases ha : base + k < s.cfg.memSize
    · have h2 : max (base + (k + 1)) s.cfg.memSize = max (base + k) s.cfg.memSize := by omega
      have := ih (k := k + 1) (s := s.setV (BitVec.ofNat 4 k) (s.mem.read (base + k))) (by omega)
        (by simp only [State.setV_cfg]; omega)
      simpa [State.loadV, State.readByte_ok s _ ha, h2] using this
    · simp [State.loadV, State.readByte_error s _ (Nat.not_lt.mp ha),
        show max (base + k) s.cfg.memSize = base + k by omega]

/-- Loading registers `k` to `k + n - 1` in range answers a state that differs only in them. -/
theorem State.loadV_ok (base : Nat) {n k : Nat} {s : State} (hk : k + n ≤ 16)
    (h : n = 0 ∨ base + k + n ≤ s.cfg.memSize) :
    ∃ v, State.loadV base n k s = .ok { s with v := v } ∧
      ∀ r, ({ s with v := v } : State).getV r =
        if k ≤ r.toNat ∧ r.toNat < k + n then s.mem.read (base + r.toNat) else s.getV r := by
  induction n generalizing k s with
  | zero => exact ⟨s.v, rfl, fun r => by rw [if_neg (by omega)]⟩
  | succ n ih =>
    have ha : base + k < s.cfg.memSize := by omega
    obtain ⟨v, hv, hr⟩ := ih (k := k + 1) (s := s.setV (BitVec.ofNat 4 k) (s.mem.read (base + k)))
      (by omega) (by simp only [State.setV_cfg]; omega)
    refine ⟨v, by simpa [State.loadV, State.readByte_ok s _ ha] using hv, fun r => ?_⟩
    have := hr r
    rw [State.getV_setV] at this
    have hkr : r = BitVec.ofNat 4 k ↔ r.toNat = k := by
      rw [← BitVec.toNat_inj, BitVec.toNat_ofNat, Nat.mod_eq_of_lt (by omega)]
    refine Eq.trans this ?_
    by_cases h1 : k + 1 ≤ r.toNat ∧ r.toNat < k + 1 + n
    · rw [if_pos h1, if_pos (by omega)]; rfl
    · rw [if_neg h1]
      by_cases h2 : r.toNat = k
      · rw [if_pos (hkr.mpr h2), if_pos (by omega), h2]
      · rw [if_neg (fun e => h2 (hkr.mp e)), if_neg (by omega)]

/-! ### The call stack -/

theorem State.push_ok (s : State) (w : Word) (h : s.stack.length < s.cfg.stackDepth) :
    s.push w = .ok (s.setStack (s.stack ++ [w])) := by simp [State.push, h]

theorem State.push_error (s : State) (w : Word) (h : s.cfg.stackDepth ≤ s.stack.length) :
    s.push w = .error (.stackOverflow s.pc0) := by simp [State.push, Nat.not_lt.mpr h]

theorem State.pop_ok (s : State) {l : List Word} {w : Word} (h : s.stack = l ++ [w]) :
    s.pop = .ok (w, s.setStack l) := by simp [State.pop, h]

theorem State.pop_error (s : State) (h : s.stack = []) : s.pop = .error (.stackUnderflow s.pc0) := by
  simp [State.pop, h]

/-! ### Fetch and the Step's frame -/

theorem State.fetch_ok (s : State) (h : s.pc.toNat + 1 < s.cfg.memSize) :
    s.fetch = .ok (wordOfBytes (s.mem.read s.pc.toNat) (s.mem.read (s.pc.toNat + 1))) := by
  simp [State.fetch, State.readByte_ok s _ (Nat.lt_of_succ_lt h), State.readByte_ok s _ h]

theorem endStep_next {o : StepOutcome} {t : State} (h : endStep o = .next t) :
    ∃ u, o = .next u ∧ t = u.takeDraws := by
  cases o with
  | next u => exact ⟨u, rfl, by cases h; rfl⟩
  | fault f => cases h
  | refused r => cases h

@[simp] theorem State.halted_supplyDraws (s : State) (d : Draws) : (s.supplyDraws d).halted = s.halted := rfl

theorem State.halted_iff (s : State) :
    s.halted = true ↔ s.loaded = false ∨ s.endMarker < (s.pc.toNat : Int) := by
  simp [State.halted]

/-! ### Results and flags -/

theorem flagByte_toNat (b : Bool) : (flagByte b).toNat = if b then 1 else 0 := by cases b <;> rfl

theorem flagByte_eq_one (b : Bool) : flagByte b = 1#8 ↔ b = true := by cases b <;> decide

@[simp] theorem State.getV_setResultFlag (s : State) (x : Reg) (r : Byte) (f : Bool) (y : Reg) :
    (s.setResultFlag x r f).getV y = if y = vf then flagByte f else if y = x then r else s.getV y := by
  simp only [State.setResultFlag, State.getV_setV]

/-- The three shared updates of the arithmetic family change nothing but the registers. -/
theorem State.setResultFlag_eq (s : State) (x : Reg) (r : Byte) (f : Bool) :
    s.setResultFlag x r f = { s with v := (s.setResultFlag x r f).v } := rfl

theorem State.setLogic_eq (s : State) (x : Reg) (r : Byte) :
    s.setLogic x r = { s with v := (s.setLogic x r).v } := by
  unfold State.setLogic; split <;> rfl

theorem State.getV_setLogic (s : State) (x : Reg) (r : Byte) (y : Reg) :
    (s.setLogic x r).getV y =
      if s.cfg.logicResetsVF = true ∧ y = vf then 0x00#8 else if y = x then r else s.getV y := by
  unfold State.setLogic
  split <;> rename_i h <;> simp [State.getV_setV, h]

theorem State.skipWhen_eq (s : State) (c : Bool) :
    s.skipWhen c = { s with pc := if c then s.pc + 2#16 else s.pc } := by
  cases c <;> rfl

theorem State.advanceI_eq (s : State) (x : Reg) :
    s.advanceI x = { s with i := if s.cfg.ldiIncrementsI then s.i + BitVec.ofNat 16 (x.toNat + 1) else s.i } := by
  unfold State.advanceI; split <;> rfl

theorem State.advanceI_on (s : State) (x : Reg) (h : s.cfg.ldiIncrementsI = true) :
    s.advanceI x = s.setI (s.i + BitVec.ofNat 16 (x.toNat + 1)) := by simp [State.advanceI, h]

theorem State.advanceI_off (s : State) (x : Reg) (h : s.cfg.ldiIncrementsI = false) : s.advanceI x = s := by
  simp [State.advanceI, h]

/-- The k-th byte LD [I], Vx stores is Vk (R206). -/
theorem State.getD_blockV (s : State) {x k : Reg} (h : k ≤ x) (b : Byte) :
    (s.blockV x).getD k.toNat b = s.getV k := by
  have : k.toNat < x.toNat + 1 := Nat.lt_succ_of_le h
  simp [State.blockV, this]

@[simp] theorem State.length_blockV (s : State) (x : Reg) : (s.blockV x).length = x.toNat + 1 := by
  simp [State.blockV]

@[simp] theorem length_bcdDigits (b : Byte) : (bcdDigits b).length = 3 := rfl

end Sys2Proof.Machine
end

