-- ==== Sys2Proof/Laws/Display.lean ====
section
/-!
SUPPORT. The display grid, and what the loops of a draw do to a canvas.
-/

namespace Sys2Proof.Machine

theorem Grid.hasSize_iff (h w : Nat) (g : Grid) :
    g.hasSize h w = true ↔ g.length = h ∧ ∀ row ∈ g, row.length = w := by
  simp [Grid.hasSize]

theorem Grid.hasSize_blank (h w : Nat) : (Grid.blank h w).hasSize h w = true := by
  simp [Grid.hasSize, Grid.blank]

theorem Grid.hasSize_tabulate (f : Nat → Nat → Bool) (h w : Nat) :
    (Grid.tabulate f h w).hasSize h w = true := by
  simp [Grid.hasSize, Grid.tabulate]

@[simp] theorem Grid.get_blank (h w r c : Nat) : (Grid.blank h w).get r c = false := by
  simp only [Grid.get, Grid.blank, List.getD_eq_getElem?_getD, List.getElem?_replicate]
  split <;> simp [List.getElem?_replicate]
  split <;> rfl

/-- Setting a cell keeps the display's size (R29: never resized). -/
theorem Grid.hasSize_set {h w : Nat} {g : Grid} (hs : g.hasSize h w = true) (r c : Nat) (b : Bool) :
    (g.set r c b).hasSize h w = true := by
  rw [Grid.hasSize_iff] at hs ⊢
  refine ⟨by simp [Grid.set, hs.1], fun row hrow => ?_⟩
  obtain ⟨k, hk, rfl⟩ := List.mem_iff_getElem.mp hrow
  simp only [Grid.set, List.getElem_modify]
  split <;> simp [hs.2 _ (List.getElem_mem _)]

/-- Reading a cell after setting one that exists. -/
theorem Grid.get_set {h w : Nat} {g : Grid} (hs : g.hasSize h w = true) {r c : Nat} (hr : r < h) (hc : c < w)
    (b : Bool) (r' c' : Nat) :
    (g.set r c b).get r' c' = if r' = r ∧ c' = c then b else g.get r' c' := by
  rw [Grid.hasSize_iff] at hs
  have hrow : g[r]? = some (g[r]'(by omega)) := List.getElem?_eq_getElem (by omega)
  have hlen : (g[r]'(by omega)).length = w := hs.2 _ (List.getElem_mem _)
  simp only [Grid.get, Grid.set, List.getD_eq_getElem?_getD, List.getElem?_modify]
  by_cases h1 : r = r'
  · subst h1
    by_cases h2 : c = c'
    · subst h2; simp [hrow, hlen, hc]
    · have h2' : ¬c' = c := fun e => h2 e.symm
      simp [hrow, h2, h2', List.getElem?_set_ne]
  · have h1' : ¬r' = r := fun e => h1 e.symm
    simp [h1, h1']

/-- A 1-bit at a cell that exists flips that cell and no other (R225). -/
theorem Canvas.get_flip {h w : Nat} {c : Canvas} (hs : c.grid.hasSize h w = true) {row col : Nat}
    (hr : row < h) (hc : col < w) (r' c' : Nat) :
    (c.flip row col).grid.get r' c' = (c.grid.get r' c' ^^ decide (r' = row ∧ c' = col)) := by
  simp only [Canvas.flip, Grid.get_set hs hr hc]
  by_cases he : r' = row ∧ c' = col
  · obtain ⟨rfl, rfl⟩ := he; simp
  · simp [he]

theorem Canvas.hasSize_flip {h w : Nat} {c : Canvas} (hs : c.grid.hasSize h w = true) (row col : Nat) :
    (c.flip row col).grid.hasSize h w = true := Grid.hasSize_set hs row col _

theorem Canvas.hasSize_drawBits {h w : Nat} (W x0 row : Nat) (b : Byte) (js : List Nat) {c : Canvas}
    (hs : c.grid.hasSize h w = true) : (c.drawBits W x0 row b js).grid.hasSize h w = true := by
  induction js generalizing c with
  | nil => exact hs
  | cons j js ih =>
    simp only [Canvas.drawBits]
    split
    · exact hs
    · split
      · exact ih (Canvas.hasSize_flip hs row (x0 + j))
      · exact ih hs

/-- A draw keeps the display's size (R29). -/
theorem State.hasSize_drawRows {h w : Nat} (s : State) (x0 y0 : Nat) (n r : Nat) {c c' : Canvas}
    (hs : c.grid.hasSize h w = true) (hd : s.drawRows x0 y0 n r c = .ok c') :
    c'.grid.hasSize h w = true := by
  induction n generalizing r c with
  | zero => cases hd; exact hs
  | succ n ih =>
    simp only [State.drawRows] at hd
    split at hd
    · cases hd
    · split at hd
      · cases hd; exact hs
      · exact ih (r + 1) (Canvas.hasSize_drawBits _ _ _ _ _ hs) hd

/-! ### What the bits of one row do -/

/-- The 1-bit at column `col` of a row byte `b` whose bits `j` to `j + m - 1` are drawn from `x0`. -/
def rowBit (w x0 : Nat) (b : Byte) (j m col : Nat) : Bool :=
  decide (x0 + j ≤ col ∧ col < x0 + j + m ∧ col < w) && b.getLsbD (7 - (col - x0))

theorem rowBit_beyond {w x0 j : Nat} (b : Byte) (m col : Nat) (h : w ≤ x0 + j) :
    rowBit w x0 b j m col = false := by
  have : ¬(x0 + j ≤ col ∧ col < x0 + j + m ∧ col < w) := by omega
  simp only [rowBit, decide_eq_false this, Bool.false_and]

theorem rowBit_succ {w x0 j : Nat} (b : Byte) (m col : Nat) (h : x0 + j < w) :
    rowBit w x0 b j (m + 1) col =
      if col = x0 + j then b.getLsbD (7 - j) else rowBit w x0 b (j + 1) m col := by
  by_cases hc : col = x0 + j
  · subst hc
    have : x0 + j ≤ x0 + j ∧ x0 + j < x0 + j + (m + 1) ∧ x0 + j < w := by omega
    simp [rowBit, this]
  · have : (x0 + j ≤ col ∧ col < x0 + j + (m + 1) ∧ col < w) ↔
        (x0 + (j + 1) ≤ col ∧ col < x0 + (j + 1) + m ∧ col < w) := by omega
    simp [rowBit, hc, this]

/-- The bits `j` to `j + m - 1` of a row: the cells they flip, the collisions and the dirty flag. -/
theorem Canvas.drawBits_spec {h w : Nat} (x0 row : Nat) (b : Byte) (m j : Nat) {c : Canvas}
    (hs : c.grid.hasSize h w = true) (hr : row < h) :
    (∀ r' c', (c.drawBits w x0 row b (List.range' j m)).grid.get r' c' =
      (c.grid.get r' c' ^^ (decide (r' = row) && rowBit w x0 b j m c'))) ∧
    ((c.drawBits w x0 row b (List.range' j m)).hit = true ↔
      c.hit = true ∨ ∃ col, rowBit w x0 b j m col = true ∧ c.grid.get row col = true) ∧
    ((c.drawBits w x0 row b (List.range' j m)).dirty = true ↔
      c.dirty = true ∨ ∃ col, rowBit w x0 b j m col = true) := by
  induction m generalizing j c with
  | zero =>
    have hz : ∀ col, rowBit w x0 b j 0 col = false := fun col => by
      have : ¬(x0 + j ≤ col ∧ col < x0 + j + 0 ∧ col < w) := by omega
      simp only [rowBit, decide_eq_false this, Bool.false_and]
    simp [Canvas.drawBits, hz]
  | succ m ih =>
    rw [List.range'_succ]
    simp only [Canvas.drawBits]
    by_cases hw : w ≤ x0 + j
    · simp [hw, rowBit_beyond b (m + 1) _ hw]
    · have hlt : x0 + j < w := Nat.lt_of_not_le hw
      rw [if_neg hw]
      simp only [rowBit_succ b m _ hlt]
      have hnot : rowBit w x0 b (j + 1) m (x0 + j) = false := by
        have : ¬(x0 + (j + 1) ≤ x0 + j ∧ x0 + j < x0 + (j + 1) + m ∧ x0 + j < w) := by omega
        simp only [rowBit, decide_eq_false this, Bool.false_and]
      by_cases hb : b.getLsbD (7 - j) = true
      · rw [if_pos hb]
        obtain ⟨h1, h2, h3⟩ := ih (j + 1) (Canvas.hasSize_flip hs row (x0 + j))
        refine ⟨fun r' c' => ?_, ?_, ?_⟩
        · rw [h1, Canvas.get_flip hs hr hlt]
          by_cases e1 : r' = row <;> by_cases e2 : c' = x0 + j <;> simp [e1, e2, hb, hnot]
        · rw [h2]
          constructor
          · rintro (hh | ⟨col, hc1, hc2⟩)
            · rcases Bool.or_eq_true_iff.mp hh with hh | hh
              · exact Or.inl hh
              · exact Or.inr ⟨x0 + j, by simp [hb], hh⟩
            · have hne : col ≠ x0 + j := by rintro rfl; simp [hnot] at hc1
              rw [Canvas.get_flip hs hr hlt] at hc2
              exact Or.inr ⟨col, by simpa [hne] using hc1, by simpa [hne] using hc2⟩
          · rintro (hh | ⟨col, hc1, hc2⟩)
            · exact Or.inl (by simp [Canvas.flip, hh])
            · by_cases hne : col = x0 + j
              · exact Or.inl (by simp [Canvas.flip, ← hne, hc2])
              · refine Or.inr ⟨col, by simpa [hne] using hc1, ?_⟩
                rw [Canvas.get_flip hs hr hlt]; simpa [hne] using hc2
        · rw [h3]
          exact ⟨fun _ => Or.inr ⟨x0 + j, by simp [hb]⟩, fun _ => Or.inl rfl⟩
      · rw [if_neg hb]
        have hb' : b.getLsbD (7 - j) = false := by simpa using hb
        obtain ⟨h1, h2, h3⟩ := ih (j + 1) hs
        have e : ∀ col, (if col = x0 + j then b.getLsbD (7 - j) else rowBit w x0 b (j + 1) m col) =
            rowBit w x0 b (j + 1) m col := fun col => by
          by_cases e2 : col = x0 + j <;> simp [e2, hb', hnot]
        simp only [e]
        exact ⟨h1, h2, h3⟩

theorem spriteCols_eq : spriteCols = List.range' 0 8 := rfl

/-! ### What the rows of a sprite do -/

/-- The 1-bit drawn at cell `(r', c')` by the rows `r` to `r + n - 1` of the sprite at I. -/
def State.rowsBit (s : State) (x0 y0 r n r' c' : Nat) : Bool :=
  decide (y0 + r ≤ r' ∧ r' < y0 + r + n ∧ r' < s.cfg.dispH)
    && rowBit s.cfg.dispW x0 (s.mem.read (s.i.toNat + (r' - y0))) 0 8 c'

theorem State.rowsBit_zero (s : State) (x0 y0 n r' c' : Nat) :
    s.rowsBit x0 y0 0 n r' c' = s.spriteBit x0 y0 n r' c' := by
  have : (y0 + 0 ≤ r' ∧ r' < y0 + 0 + n ∧ r' < s.cfg.dispH) ∧
      (x0 + 0 ≤ c' ∧ c' < x0 + 0 + 8 ∧ c' < s.cfg.dispW) ↔
      (y0 ≤ r' ∧ r' < y0 + n ∧ r' < s.cfg.dispH ∧ x0 ≤ c' ∧ c' < x0 + 8 ∧ c' < s.cfg.dispW) := by omega
  simp only [State.rowsBit, rowBit, State.spriteBit, ← Bool.and_assoc, ← Bool.decide_and]
  simp only [this]

theorem State.rowsBit_beyond (s : State) {x0 y0 r : Nat} (n r' c' : Nat) (h : s.cfg.dispH ≤ y0 + r) :
    s.rowsBit x0 y0 r n r' c' = false := by
  have : ¬(y0 + r ≤ r' ∧ r' < y0 + r + n ∧ r' < s.cfg.dispH) := by omega
  simp [State.rowsBit, this]

theorem State.rowsBit_succ (s : State) {x0 y0 r : Nat} (n r' c' : Nat) (h : y0 + r < s.cfg.dispH) :
    s.rowsBit x0 y0 r (n + 1) r' c' =
      if r' = y0 + r then rowBit s.cfg.dispW x0 (s.mem.read (s.i.toNat + r)) 0 8 c'
      else s.rowsBit x0 y0 (r + 1) n r' c' := by
  by_cases hr : r' = y0 + r
  · subst hr
    have : y0 + r ≤ y0 + r ∧ y0 + r < y0 + r + (n + 1) ∧ y0 + r < s.cfg.dispH := by omega
    simp [State.rowsBit, this]
  · have : (y0 + r ≤ r' ∧ r' < y0 + r + (n + 1) ∧ r' < s.cfg.dispH) ↔
        (y0 + (r + 1) ≤ r' ∧ r' < y0 + (r + 1) + n ∧ r' < s.cfg.dispH) := by omega
    simp [State.rowsBit, hr, this]

/-- A draw that completes (R225): the cells it flips, the collisions (R227) and the dirty flag (R228). -/
theorem State.drawRows_spec (s : State) (x0 y0 : Nat) (n r : Nat) {c c' : Canvas}
    (hs : c.grid.hasSize s.cfg.dispH s.cfg.dispW = true) (hd : s.drawRows x0 y0 n r c = .ok c') :
    (∀ row col, c'.grid.get row col = (c.grid.get row col ^^ s.rowsBit x0 y0 r n row col)) ∧
    (c'.hit = true ↔ c.hit = true ∨
      ∃ row col, s.rowsBit x0 y0 r n row col = true ∧ c.grid.get row col = true) ∧
    (c'.dirty = true ↔ c.dirty = true ∨ ∃ row col, s.rowsBit x0 y0 r n row col = true) := by
  induction n generalizing r c with
  | zero =>
    cases hd
    have hz : ∀ row col, s.rowsBit x0 y0 r 0 row col = false := fun row col => by
      have : ¬(y0 + r ≤ row ∧ row < y0 + r + 0 ∧ row < s.cfg.dispH) := by omega
      simp only [State.rowsBit, decide_eq_false this, Bool.false_and]
    simp [hz]
  | succ n ih =>
    simp only [State.drawRows] at hd
    split at hd
    · cases hd
    · rename_i b hb
      obtain ⟨-, rfl⟩ := State.readByte_eq_ok hb
      simp only [State.indexAddr] at hd
      split at hd
      · rename_i hh
        cases hd
        simp [State.rowsBit_beyond s _ _ _ hh]
      · rename_i hh
        have hlt : y0 + r < s.cfg.dispH := Nat.lt_of_not_le hh
        obtain ⟨h1, h2, h3⟩ := ih (r + 1) (Canvas.hasSize_drawBits _ _ _ _ _ hs) hd
        obtain ⟨g1, g2, g3⟩ := Canvas.drawBits_spec x0 (y0 + r) (s.mem.read (s.i.toNat + r)) 8 0 hs hlt
        rw [← spriteCols_eq] at g1 g2 g3
        have hnot : ∀ col, s.rowsBit x0 y0 (r + 1) n (y0 + r) col = false := fun col => by
          have : ¬(y0 + (r + 1) ≤ y0 + r ∧ y0 + r < y0 + (r + 1) + n ∧ y0 + r < s.cfg.dispH) := by omega
          simp only [State.rowsBit, decide_eq_false this, Bool.false_and]
        simp only [State.rowsBit_succ s n _ _ hlt]
        refine ⟨fun row col => ?_, ?_, ?_⟩
        · rw [h1, g1]
          by_cases e : row = y0 + r <;> simp [e, hnot]
        · rw [h2, g2]
          constructor
          · rintro ((hh | ⟨col, a1, a2⟩) | ⟨row, col, a1, a2⟩)
            · exact Or.inl hh
            · exact Or.inr ⟨y0 + r, col, by simpa using a1, a2⟩
            · have hne : row ≠ y0 + r := by rintro rfl; simp [hnot] at a1
              rw [g1] at a2
              exact Or.inr ⟨row, col, by simpa [hne] using a1, by simpa [hne] using a2⟩
          · rintro (hh | ⟨row, col, a1, a2⟩)
            · exact Or.inl (Or.inl hh)
            · by_cases hne : row = y0 + r
              · subst hne; exact Or.inl (Or.inr ⟨col, by simpa using a1, a2⟩)
              · refine Or.inr ⟨row, col, by simpa [hne] using a1, ?_⟩
                rw [g1]; simpa [hne] using a2
        · rw [h3, g3]
          constructor
          · rintro ((hh | ⟨col, a1⟩) | ⟨row, col, a1⟩)
            · exact Or.inl hh
            · exact Or.inr ⟨y0 + r, col, by simpa using a1⟩
            · have hne : row ≠ y0 + r := by rintro rfl; simp [hnot] at a1
              exact Or.inr ⟨row, col, by simpa [hne] using a1⟩
          · rintro (hh | ⟨row, col, a1⟩)
            · exact Or.inl (Or.inl hh)
            · by_cases hne : row = y0 + r
              · subst hne; exact Or.inl (Or.inr ⟨col, by simpa using a1⟩)
              · exact Or.inr ⟨row, col, by simpa [hne] using a1⟩

/-- A draw completes when every row byte it reads is in range (R226). -/
theorem State.drawRows_completes (s : State) (x0 y0 : Nat) (n r : Nat) (c : Canvas)
    (h : ∀ k, r ≤ k → k < r + n → (k = r ∨ y0 + k ≤ s.cfg.dispH) → s.i.toNat + k < s.cfg.memSize) :
    ∃ c', s.drawRows x0 y0 n r c = .ok c' := by
  induction n generalizing r c with
  | zero => exact ⟨c, rfl⟩
  | succ n ih =>
    have hr := State.readByte_ok s (.memReadOob s.pc0) (h r (Nat.le_refl r) (by omega) (Or.inl rfl))
    by_cases hh : s.cfg.dispH ≤ y0 + r
    · exact ⟨c, by simp [State.drawRows, State.indexAddr, hr, hh]⟩
    · obtain ⟨c', hc'⟩ := ih (r + 1)
        (c.drawBits s.cfg.dispW x0 (y0 + r) (s.mem.read (s.i.toNat + r)) spriteCols)
        (fun k hk1 hk2 hk3 => h k (by omega) (by omega) (Or.inr (by omega)))
      exact ⟨c', by simpa [State.drawRows, State.indexAddr, hr, hh] using hc'⟩

/-- A draw faults at the first row byte it reads out of range (R226). -/
theorem State.drawRows_error (s : State) (x0 y0 : Nat) (n r k : Nat) (c : Canvas)
    (hk : r ≤ k) (hn : k < r + n) (hd : y0 + k ≤ s.cfg.dispH) (hm : s.cfg.memSize ≤ s.i.toNat + k)
    (hf : ∀ j, r ≤ j → j < k → s.i.toNat + j < s.cfg.memSize) :
    s.drawRows x0 y0 n r c = .error (.memReadOob s.pc0 (s.i.toNat + k)) := by
  induction n generalizing r c with
  | zero => omega
  | succ n ih =>
    by_cases hkr : k = r
    · subst hkr
      simp [State.drawRows, State.indexAddr, State.readByte_error s _ hm]
    · have hr := State.readByte_ok s (.memReadOob s.pc0) (hf r (Nat.le_refl r) (by omega))
      have hh : ¬s.cfg.dispH ≤ y0 + r := by omega
      have := ih (r + 1) (c.drawBits s.cfg.dispW x0 (y0 + r) (s.mem.read (s.i.toNat + r)) spriteCols)
        (by omega) (by omega) (fun j h1 h2 => hf j (by omega) h2)
      simpa [State.drawRows, State.indexAddr, hr, hh] using this

end Sys2Proof.Machine
end

