-- ==== Sys2Proof/Laws/Cases.lean ====
section
/-!
SUPPORT. What each shared operation can answer: its next state or its fault, said once.
-/

namespace Sys2Proof.Machine

/-! ### Checked accesses and the loops over them -/

/-- A store of several bytes that completes: all of them written, the whole range in memory. -/
theorem State.storeBytes_next {s t : State} {a : Nat} {bs : List Byte} (h : s.storeBytes a bs = .ok t) :
    t = s.setMem (s.mem.writeAll a bs) ∧ (bs ≠ [] → a + bs.length ≤ s.cfg.memSize) := by
  induction bs generalizing s a with
  | nil => cases h; exact ⟨rfl, fun h => absurd rfl h⟩
  | cons b bs ih =>
    simp only [State.storeBytes] at h
    split at h
    · rename_i u hu
      simp only [State.writeByte] at hu
      split at hu <;> cases hu
      obtain ⟨h1, h2⟩ := ih h
      refine ⟨h1, fun _ => ?_⟩
      by_cases hb : bs = []
      · subst hb; simp; omega
      · have := h2 hb; simp at this ⊢; omega
    · cases h

/-- A store of several bytes stops only with MEM_WRITE_OOB at an address out of range. -/
theorem State.storeBytes_fault {s : State} {a : Nat} {bs : List Byte} {f : Fault}
    (h : s.storeBytes a bs = .error f) : ∃ x, f = .memWriteOob s.pc0 x ∧ s.cfg.memSize ≤ x := by
  induction bs generalizing s a with
  | nil => cases h
  | cons b bs ih =>
    simp only [State.storeBytes] at h
    split at h
    · rename_i t ht
      have : t.pc0 = s.pc0 ∧ t.cfg = s.cfg := by
        simp only [State.writeByte] at ht
        split at ht <;> cases ht
        exact ⟨rfl, rfl⟩
      obtain ⟨x, h1, h2⟩ := ih h
      exact ⟨x, by rw [h1, this.1], by rw [← this.2]; exact h2⟩
    · rename_i g hg
      cases h
      simp only [State.writeByte] at hg
      split at hg <;> cases hg
      exact ⟨_, rfl, by omega⟩

/-- A load of several registers that completes writes registers and nothing else. -/
theorem State.loadV_next {s t : State} {b n k : Nat} (h : State.loadV b n k s = .ok t) :
    ∃ v, t = { s with v := v } := by
  induction n generalizing s k with
  | zero => cases h; exact ⟨_, rfl⟩
  | succ n ih =>
    simp only [State.loadV] at h
    split at h
    · obtain ⟨v, hv⟩ := ih h; exact ⟨v, hv⟩
    · cases h

/-- A load of several registers stops only with MEM_READ_OOB at an address out of range. -/
theorem State.loadV_fault {s : State} {b n k : Nat} {f : Fault} (h : State.loadV b n k s = .error f) :
    ∃ x, f = .memReadOob s.pc0 x ∧ s.cfg.memSize ≤ x := by
  induction n generalizing s k with
  | zero => cases h
  | succ n ih =>
    simp only [State.loadV] at h
    split at h
    · obtain ⟨x, h1, h2⟩ := ih h; exact ⟨x, h1, h2⟩
    · rename_i g hg
      cases h
      simp only [State.readByte] at hg
      split at hg <;> cases hg
      exact ⟨_, rfl, by omega⟩

/-- A push that completes, and one that does not (R25, R132). -/
theorem State.push_cases (s : State) (w : Word) :
    (s.stack.length < s.cfg.stackDepth ∧ s.push w = .ok (s.setStack (s.stack ++ [w]))) ∨
    (s.cfg.stackDepth ≤ s.stack.length ∧ s.push w = .error (.stackOverflow s.pc0)) := by
  by_cases h : s.stack.length < s.cfg.stackDepth
  · exact .inl ⟨h, State.push_ok s w h⟩
  · exact .inr ⟨Nat.le_of_not_lt h, State.push_error s w (Nat.le_of_not_lt h)⟩

/-- A pop that completes, and one that does not (R25, R133). -/
theorem State.pop_cases (s : State) :
    (∃ l w, s.stack = l ++ [w] ∧ s.pop = .ok (w, s.setStack l)) ∨
    (s.stack = [] ∧ s.pop = .error (.stackUnderflow s.pc0)) := by
  rcases List.eq_nil_or_concat s.stack with h | ⟨l, w, h⟩
  · exact .inr ⟨h, State.pop_error s h⟩
  · exact .inl ⟨l, w, by simpa using h, State.pop_ok s (by simpa using h)⟩

/-! ### The draw -/

/-- A draw stops only with MEM_READ_OOB at an address out of range (R226). -/
theorem State.drawRows_fault {s : State} {x0 y0 n r : Nat} {c : Canvas} {f : Fault}
    (h : s.drawRows x0 y0 n r c = .error f) : ∃ x, f = .memReadOob s.pc0 x ∧ s.cfg.memSize ≤ x := by
  induction n generalizing r c with
  | zero => cases h
  | succ n ih =>
    simp only [State.drawRows] at h
    split at h
    · rename_i g hg
      cases h
      simp only [State.readByte] at hg
      split at hg <;> cases hg
      exact ⟨_, rfl, by omega⟩
    · split at h
      · cases h
      · exact ih h

/-- The canvas of a whole sprite (R225, R227, R228), in the terms of `State.spriteBit`. -/
theorem State.drawSprite_spec {s : State} {x y : Reg} {n : Nibble} {c : Canvas}
    (hs : s.disp.hasSize s.cfg.dispH s.cfg.dispW = true) (h : s.drawSprite x y n = .ok c) :
    c.grid.hasSize s.cfg.dispH s.cfg.dispW = true ∧
    (∀ row col, c.grid.get row col =
      (s.disp.get row col ^^ s.spriteBit (s.originX x) (s.originY y) n.toNat row col)) ∧
    (c.hit = true ↔ ∃ row col,
      s.spriteBit (s.originX x) (s.originY y) n.toNat row col = true ∧ s.disp.get row col = true) ∧
    (c.dirty = true ↔ s.dirty = true ∨ ∃ row col,
      s.spriteBit (s.originX x) (s.originY y) n.toNat row col = true) := by
  have h1 := State.drawRows_spec s _ _ _ _ (by exact hs) h
  have h2 := State.hasSize_drawRows s _ _ _ _ (by exact hs) h
  simp only [State.rowsBit_zero] at h1
  exact ⟨h2, h1.1, by simpa using h1.2.1, h1.2.2⟩

/-! ### The Step -/

theorem State.canFetch_iff (s : State) :
    s.canFetch = true ↔ s.fault = none ∧ s.halted = false ∧ s.pc.toNat + 1 < s.cfg.memSize := by
  simp [State.canFetch, and_assoc]

/-- Fetch: the word at PC, or FETCH_OOB at the first of the two addresses out of range (R113). -/
theorem State.fetch_cases (s : State) :
    (s.pc.toNat + 1 < s.cfg.memSize ∧ s.fetch = .ok s.wordAtPc) ∨
    (s.cfg.memSize ≤ s.pc.toNat + 1 ∧
      s.fetch = .error (.fetchOob s.pc (max s.pc.toNat s.cfg.memSize))) := by
  by_cases h : s.pc.toNat + 1 < s.cfg.memSize
  · exact .inl ⟨h, State.fetch_ok s h⟩
  · refine .inr ⟨Nat.le_of_not_lt h, ?_⟩
    by_cases h0 : s.pc.toNat < s.cfg.memSize
    · have e : s.pc.toNat + 1 = s.cfg.memSize := by omega
      rw [State.fetch, State.readByte_ok s _ h0]
      simp only [State.readByte_error s (.fetchOob s.pc) (show s.cfg.memSize ≤ s.pc.toNat + 1 by omega)]
      rw [e, Nat.max_eq_right h0.le]
    · have h0 := Nat.le_of_not_lt h0
      rw [State.fetch, State.readByte_error s _ h0, Nat.max_eq_left h0]

/-- Everything a Step can do (R121). -/
theorem step_cases (s : State) :
    (∃ f, s.fault = some f ∧ step s = .fault f) ∨
    (s.fault = none ∧ s.halted = true ∧ step s = .next s) ∨
    (s.fault = none ∧ s.halted = false ∧ s.cfg.memSize ≤ s.pc.toNat + 1 ∧
      step s = .fault (.fetchOob s.pc (max s.pc.toNat s.cfg.memSize))) ∨
    (s.canFetch = true ∧ step s = endStep (runWord s.wordAtPc s.advancePc)) := by
  cases hf : s.fault with
  | some f => exact .inl ⟨f, rfl, by simp [step, hf, raiseFatal]⟩
  | none =>
    cases hh : s.halted with
    | true => exact .inr (.inl ⟨rfl, rfl, by simp [step, hf, hh]⟩)
    | false =>
      rcases State.fetch_cases s with ⟨h, he⟩ | ⟨h, he⟩
      · exact .inr (.inr (.inr ⟨(State.canFetch_iff s).2 ⟨hf, hh, h⟩, by simp [step, hf, hh, he]⟩))
      · exact .inr (.inr (.inl ⟨rfl, rfl, h, by simp [step, hf, hh, he, raiseFatal]⟩))

/-! ### The host's operations -/

/-- A Load that succeeds (R305): the image fits, and the state it leaves. -/
theorem State.load_ok {s t : State} {im : Image} (h : s.load im = .ok t) :
    ∃ l, im = .bytes l ∧ s.cfg.programStart + l.length ≤ s.cfg.memSize ∧
      t = { s with
        mem := s.mem.writeAll s.cfg.programStart l
        endMarker := (s.cfg.programStart : Int) + (l.length : Int) - 1
        loaded := true } := by
  cases im
  · simp only [State.load] at h
    split at h <;> cases h
    exact ⟨_, rfl, by assumption, rfl⟩
  · cases h

/-- The state after a fatal fault keeps the types' and the ranges' limits (log entry 5). -/
theorem State.Inv.recordFatal {s : State} (hi : s.Inv) (f : Fault) : (s.recordFatal f).Inv := by
  have hv := hi.cfgValid
  have : s.cfg.programStart < s.cfg.memSize := by simp [Config.valid] at hv; omega
  refine ⟨hv, Memory.wf_tabulate _ _, ?_, Grid.hasSize_tabulate _ _ _, ?_, ?_, ?_⟩
  · simpa using Memory.fits_tabulate (Config.faultMem s.drawCount) s.cfg.memSize 0
  · simp only [State.recordFatal_stack, State.recordFatal_cfg, List.length_take]; omega
  · rw [State.recordFatal_endMarker, State.recordFatal_cfg]; omega
  · rw [State.recordFatal_endMarker, State.recordFatal_cfg]
    have := Nat.mod_lt (Config.faultEnd s.drawCount)
      (show 0 < s.cfg.memSize - s.cfg.programStart + 1 by omega)
    omega

/-- Reset memory is in its canonical form. -/
theorem State.reset_mem_wf : State.reset.mem.wf = true := rfl

/-- Writing a run of bytes inside memory keeps the invariant. -/
theorem State.Inv.setMem_writeAll {s : State} (h : s.Inv) {a : Nat} {bs : List Byte}
    (hb : a + bs.length ≤ s.cfg.memSize) : (s.setMem (s.mem.writeAll a bs)).Inv :=
  { h with memWf := Memory.wf_writeAll h.memWf _ _, memFits := Memory.fits_writeAll h.memFits _ hb }

end Sys2Proof.Machine
end

