-- ==== Sys2Proof/Laws/PerInstr.lean ====
section
/-!
SUPPORT. A law of the encoder for every instruction: its word lies in its row of the opcode table.
-/

namespace Sys2Proof.Laws

/-- Masking all but the class. -/
theorem wordNNN_and_class (c : BitVec 4) (nnn : Addr12) :
    wordNNN c nnn &&& 0xF000#16 = wordNNN c 0x000#12 := by
  apply BitVec.eq_of_getLsbD_eq
  intro k hk
  simp only [wordNNN, BitVec.getLsbD_and, BitVec.getLsbD_append]
  interval_cases k <;> simp

/-- Masking all but the class. -/
theorem wordXNN_and_class (c : BitVec 4) (x : Reg) (nn : Byte) :
    wordXNN c x nn &&& 0xF000#16 = wordNNN c 0x000#12 := by
  apply BitVec.eq_of_getLsbD_eq
  intro k hk
  simp only [wordXNN, wordNNN, BitVec.getLsbD_and, BitVec.getLsbD_append]
  interval_cases k <;> simp

/-- Masking all but the class. -/
theorem wordXYN_and_class (c : BitVec 4) (x y : Reg) (n : Nibble) :
    wordXYN c x y n &&& 0xF000#16 = wordNNN c 0x000#12 := by
  apply BitVec.eq_of_getLsbD_eq
  intro k hk
  simp only [wordXYN, wordNNN, BitVec.getLsbD_and, BitVec.getLsbD_append]
  interval_cases k <;> simp

/-- Masking all but the class and the low byte. -/
theorem wordXNN_and_classByte (c : BitVec 4) (x : Reg) (nn : Byte) :
    wordXNN c x nn &&& 0xF0FF#16 = wordXNN c 0x0#4 nn := by
  apply BitVec.eq_of_getLsbD_eq
  intro k hk
  simp only [wordXNN, BitVec.getLsbD_and, BitVec.getLsbD_append]
  interval_cases k <;> simp

/-- Masking all but the class and the low nibble. -/
theorem wordXYN_and_classNibble (c : BitVec 4) (x y : Reg) (n : Nibble) :
    wordXYN c x y n &&& 0xF00F#16 = wordXYN c 0x0#4 0x0#4 n := by
  apply BitVec.eq_of_getLsbD_eq
  intro k hk
  simp only [wordXYN, BitVec.getLsbD_and, BitVec.getLsbD_append]
  interval_cases k <;> simp

/-- The word of the instruction matches the mask and the match of its row (30_encoding.md R86). -/
def InTableRow.Statement (i : Instr) : Prop := encode i &&& (tableRow i).1 = (tableRow i).2

theorem InTableRow.cls : InTableRow.Statement .cls := rfl

theorem InTableRow.ret : InTableRow.Statement .ret := rfl

theorem InTableRow.jp (nnn : Addr12) : InTableRow.Statement (.jp nnn) :=
  wordNNN_and_class 0x1#4 nnn

theorem InTableRow.call (nnn : Addr12) : InTableRow.Statement (.call nnn) :=
  wordNNN_and_class 0x2#4 nnn

theorem InTableRow.seByte (x : Reg) (nn : Byte) : InTableRow.Statement (.seByte x nn) :=
  wordXNN_and_class 0x3#4 x nn

theorem InTableRow.sneByte (x : Reg) (nn : Byte) : InTableRow.Statement (.sneByte x nn) :=
  wordXNN_and_class 0x4#4 x nn

theorem InTableRow.seReg (x y : Reg) : InTableRow.Statement (.seReg x y) :=
  wordXYN_and_class 0x5#4 x y 0x0#4

theorem InTableRow.ldByte (x : Reg) (nn : Byte) : InTableRow.Statement (.ldByte x nn) :=
  wordXNN_and_class 0x6#4 x nn

theorem InTableRow.addByte (x : Reg) (nn : Byte) : InTableRow.Statement (.addByte x nn) :=
  wordXNN_and_class 0x7#4 x nn

theorem InTableRow.ldReg (x y : Reg) : InTableRow.Statement (.ldReg x y) :=
  wordXYN_and_classNibble 0x8#4 x y 0x0#4

theorem InTableRow.orReg (x y : Reg) : InTableRow.Statement (.orReg x y) :=
  wordXYN_and_classNibble 0x8#4 x y 0x1#4

theorem InTableRow.andReg (x y : Reg) : InTableRow.Statement (.andReg x y) :=
  wordXYN_and_classNibble 0x8#4 x y 0x2#4

theorem InTableRow.xorReg (x y : Reg) : InTableRow.Statement (.xorReg x y) :=
  wordXYN_and_classNibble 0x8#4 x y 0x3#4

theorem InTableRow.addReg (x y : Reg) : InTableRow.Statement (.addReg x y) :=
  wordXYN_and_classNibble 0x8#4 x y 0x4#4

theorem InTableRow.subReg (x y : Reg) : InTableRow.Statement (.subReg x y) :=
  wordXYN_and_classNibble 0x8#4 x y 0x5#4

theorem InTableRow.shr (x y : Reg) : InTableRow.Statement (.shr x y) :=
  wordXYN_and_classNibble 0x8#4 x y 0x6#4

theorem InTableRow.subn (x y : Reg) : InTableRow.Statement (.subn x y) :=
  wordXYN_and_classNibble 0x8#4 x y 0x7#4

theorem InTableRow.shl (x y : Reg) : InTableRow.Statement (.shl x y) :=
  wordXYN_and_classNibble 0x8#4 x y 0xE#4

theorem InTableRow.sneReg (x y : Reg) : InTableRow.Statement (.sneReg x y) :=
  wordXYN_and_class 0x9#4 x y 0x0#4

theorem InTableRow.ldI (nnn : Addr12) : InTableRow.Statement (.ldI nnn) :=
  wordNNN_and_class 0xA#4 nnn

theorem InTableRow.jpV0 (nnn : Addr12) : InTableRow.Statement (.jpV0 nnn) :=
  wordNNN_and_class 0xB#4 nnn

theorem InTableRow.rnd (x : Reg) (nn : Byte) : InTableRow.Statement (.rnd x nn) :=
  wordXNN_and_class 0xC#4 x nn

theorem InTableRow.drw (x y : Reg) (n : Nibble) : InTableRow.Statement (.drw x y n) :=
  wordXYN_and_class 0xD#4 x y n

theorem InTableRow.skp (x : Reg) : InTableRow.Statement (.skp x) :=
  wordXNN_and_classByte 0xE#4 x 0x9E#8

theorem InTableRow.sknp (x : Reg) : InTableRow.Statement (.sknp x) :=
  wordXNN_and_classByte 0xE#4 x 0xA1#8

theorem InTableRow.ldVxDt (x : Reg) : InTableRow.Statement (.ldVxDt x) :=
  wordXNN_and_classByte 0xF#4 x 0x07#8

theorem InTableRow.ldVxK (x : Reg) : InTableRow.Statement (.ldVxK x) :=
  wordXNN_and_classByte 0xF#4 x 0x0A#8

theorem InTableRow.ldDtVx (x : Reg) : InTableRow.Statement (.ldDtVx x) :=
  wordXNN_and_classByte 0xF#4 x 0x15#8

theorem InTableRow.ldStVx (x : Reg) : InTableRow.Statement (.ldStVx x) :=
  wordXNN_and_classByte 0xF#4 x 0x18#8

theorem InTableRow.addI (x : Reg) : InTableRow.Statement (.addI x) :=
  wordXNN_and_classByte 0xF#4 x 0x1E#8

theorem InTableRow.ldF (x : Reg) : InTableRow.Statement (.ldF x) :=
  wordXNN_and_classByte 0xF#4 x 0x29#8

theorem InTableRow.ldB (x : Reg) : InTableRow.Statement (.ldB x) :=
  wordXNN_and_classByte 0xF#4 x 0x33#8

theorem InTableRow.storeRegs (x : Reg) : InTableRow.Statement (.storeRegs x) :=
  wordXNN_and_classByte 0xF#4 x 0x55#8

theorem InTableRow.loadRegs (x : Reg) : InTableRow.Statement (.loadRegs x) :=
  wordXNN_and_classByte 0xF#4 x 0x65#8

theorem InTableRow.sys (nnn : Addr12) : InTableRow.Statement (.sys nnn) :=
  wordNNN_and_class 0x0#4 nnn

end Sys2Proof.Laws
end

