-- ==== Sys2Proof/Tests/Slice0.lean ====
section
/-!
SUPPORT. Tests of one step each, from the vectors of spec/95_test_vectors.md (V1 to V9), decodings of
words written out from the patterns of 30_encoding.md R86, the well-formedness smoke test, and a
witness for the hypotheses of each obligation that has some.
-/

namespace Sys2Proof.Tests

open Sys2Proof.Machine

/-! ### Helpers -/

/-- Reset with one word loaded at 0x200, as the vectors' heading says. -/
def placed (w : Nat) : State := State.reset.withFetchWord 16 w

/-- The Step goes on, to a state with `p`. -/
def goesTo (s : State) (p : State → Bool) : Bool :=
  match step s with
  | .next t => p t
  | .fault _ => false
  | .refused _ => false

/-- The Step ends with the fatal fault `f`. -/
def faults (s : State) (f : Fault) : Bool :=
  match step s with
  | .next _ => false
  | .fault g => g == f
  | .refused _ => false

/-- The configuration changed. -/
def withCfg (f : Config → Config) (s : State) : State := { s with cfg := f s.cfg }

/-- Bytes placed in memory. -/
def withBytes (s : State) (a : Nat) (l : List Byte) : State := s.setMem (s.mem.writeAll a l)

/-- The word placed, with V1, V2 and VF set. -/
def alu (w : Nat) (v1 v2 f : Byte) : State := (((placed w).setV 1#4 v1).setV 2#4 v2).setV 15#4 f

/-- V1 and VF hold these. -/
def res (v1 f : Byte) (t : State) : Bool := t.getV 1#4 == v1 && t.getV 15#4 == f

/-- A display with these cells lit, `(row, column)`. -/
def lit (l : List (Nat × Nat)) : Grid := l.foldl (fun g p => g.set p.1 p.2 true) (Grid.blank 32 64)

/-- The word placed, the sprite's bytes at `i`, I there, V0 and V1 the origin. -/
def sprite (w : Nat) (v0 v1 : Byte) (i : Word) (l : List Byte) : State :=
  (((withBytes (placed w) i.toNat l).setI i).setV 0#4 v0).setV 1#4 v1

/-- The invariant, as a check that evaluates. -/
def invCheck (s : State) : Bool :=
  s.cfg.valid && s.mem.wf && s.mem.fits s.cfg.memSize && s.disp.hasSize s.cfg.dispH s.cfg.dispW
    && decide (s.stack.length ≤ s.cfg.stackDepth)
    && decide ((s.cfg.programStart : Int) - 1 ≤ s.endMarker)
    && decide (s.endMarker ≤ (s.cfg.memSize : Int) - 1)

theorem inv_of_check {s : State} (h : invCheck s = true) : s.Inv := by
  simp only [invCheck, Bool.and_eq_true, decide_eq_true_eq] at h
  obtain ⟨⟨⟨⟨⟨⟨h1, h2⟩, h3⟩, h4⟩, h5⟩, h6⟩, h7⟩ := h
  exact ⟨h1, h2, h3, h4, h5, h6, h7⟩

def ref6 : Config := { Config.defaults with opset := .reference6 }
def fullWord : Config := { Config.defaults with class0Match := .fullWord }
def zeroN : Config := { Config.defaults with class59Match := .requireZero }

/-- The instruction completes. -/
def completes (i : Instr) (s : State) : Bool :=
  match exec i s with
  | .next _ => true
  | .fault _ => false
  | .refused _ => false

/-- The instruction is the fatal fault `f`. -/
def raises (i : Instr) (s : State) (f : Fault) : Bool :=
  match exec i s with
  | .next _ => false
  | .fault g => g == f
  | .refused _ => false

theorem next_of_completes {i : Instr} {s : State} (h : completes i s = true) : ∃ t, exec i s = .next t := by
  cases he : exec i s <;> simp_all [completes]

theorem fault_of_raises {i : Instr} {s : State} {f : Fault} (h : raises i s f = true) : exec i s = .fault f := by
  cases he : exec i s <;> simp_all [raises]

theorem next_of_goesTo {s : State} {p : State → Bool} (h : goesTo s p = true) :
    ∃ t, step s = .next t ∧ p t = true := by
  cases he : step s <;> simp_all [goesTo]

theorem fault_of_faults {s : State} {f : Fault} (h : faults s f = true) : step s = .fault f := by
  cases he : step s <;> simp_all [faults]

/-- Running at the top of memory: PC at `pc`, the end marker at the last byte. -/
def atTop (pc : Word) (l : List Byte) : State :=
  { (withBytes (placed 0) pc.toNat l).setPc pc with endMarker := 0xFFF }

/-! ### Well-formedness (R8, R87, R90, R130): each check refuses an ill-formed term -/

theorem test_wf_sys_that_is_cls : Instr.wellFormed Config.defaults (.sys 0x0E0#12) = false := by decide
theorem test_wf_sys_that_is_ret : Instr.wellFormed Config.defaults (.sys 0x0EE#12) = false := by decide
theorem test_wf_sys_low_byte : Instr.wellFormed Config.defaults (.sys 0x1E0#12) = false := by decide
theorem test_wf_sys_full_word : Instr.wellFormed fullWord (.sys 0x1E0#12) = true := by decide
theorem test_wf_sys : Instr.wellFormed Config.defaults (.sys 0x123#12) = true := by decide
theorem test_wf_call_not_in_reference6 : Instr.wellFormed ref6 (.call 0x300#12) = false := by decide
theorem test_wf_draw_in_reference6 : Instr.wellFormed ref6 (.drw 0x1#4 0x2#4 0x3#4) = true := by decide

/-! ### Decoding: words written out from the patterns of R86 -/

theorem test_decode_cls : decode Config.defaults 0x00E0#16 = .ok .cls := by decide
theorem test_decode_ret : decode Config.defaults 0x00EE#16 = .ok .ret := by decide
theorem test_decode_jp : decode Config.defaults 0x1234#16 = .ok (.jp 0x234#12) := by decide
theorem test_decode_call : decode Config.defaults 0x2ABC#16 = .ok (.call 0xABC#12) := by decide
theorem test_decode_seByte : decode Config.defaults 0x3A05#16 = .ok (.seByte 0xA#4 0x05#8) := by decide
theorem test_decode_sneByte : decode Config.defaults 0x4B5F#16 = .ok (.sneByte 0xB#4 0x5F#8) := by decide
theorem test_decode_seReg : decode Config.defaults 0x5120#16 = .ok (.seReg 0x1#4 0x2#4) := by decide
theorem test_decode_ldByte : decode Config.defaults 0x6A42#16 = .ok (.ldByte 0xA#4 0x42#8) := by decide
theorem test_decode_addByte : decode Config.defaults 0x7CFE#16 = .ok (.addByte 0xC#4 0xFE#8) := by decide
theorem test_decode_ldReg : decode Config.defaults 0x8120#16 = .ok (.ldReg 0x1#4 0x2#4) := by decide
theorem test_decode_orReg : decode Config.defaults 0x8341#16 = .ok (.orReg 0x3#4 0x4#4) := by decide
theorem test_decode_andReg : decode Config.defaults 0x8562#16 = .ok (.andReg 0x5#4 0x6#4) := by decide
theorem test_decode_xorReg : decode Config.defaults 0x8783#16 = .ok (.xorReg 0x7#4 0x8#4) := by decide
theorem test_decode_addReg : decode Config.defaults 0x81F4#16 = .ok (.addReg 0x1#4 0xF#4) := by decide
theorem test_decode_subReg : decode Config.defaults 0x8F25#16 = .ok (.subReg 0xF#4 0x2#4) := by decide
theorem test_decode_shr : decode Config.defaults 0x89A6#16 = .ok (.shr 0x9#4 0xA#4) := by decide
theorem test_decode_subn : decode Config.defaults 0x8BC7#16 = .ok (.subn 0xB#4 0xC#4) := by decide
theorem test_decode_shl : decode Config.defaults 0x8DEE#16 = .ok (.shl 0xD#4 0xE#4) := by decide
theorem test_decode_sneReg : decode Config.defaults 0x9120#16 = .ok (.sneReg 0x1#4 0x2#4) := by decide
theorem test_decode_ldI : decode Config.defaults 0xA2F0#16 = .ok (.ldI 0x2F0#12) := by decide
theorem test_decode_jpV0 : decode Config.defaults 0xB210#16 = .ok (.jpV0 0x210#12) := by decide
theorem test_decode_rnd : decode Config.defaults 0xC30F#16 = .ok (.rnd 0x3#4 0x0F#8) := by decide
theorem test_decode_drw : decode Config.defaults 0xD12F#16 = .ok (.drw 0x1#4 0x2#4 0xF#4) := by decide
theorem test_decode_skp : decode Config.defaults 0xE19E#16 = .ok (.skp 0x1#4) := by decide
theorem test_decode_sknp : decode Config.defaults 0xE2A1#16 = .ok (.sknp 0x2#4) := by decide
theorem test_decode_ldVxDt : decode Config.defaults 0xF507#16 = .ok (.ldVxDt 0x5#4) := by decide
theorem test_decode_ldVxK : decode Config.defaults 0xF30A#16 = .ok (.ldVxK 0x3#4) := by decide
theorem test_decode_ldDtVx : decode Config.defaults 0xF615#16 = .ok (.ldDtVx 0x6#4) := by decide
theorem test_decode_ldStVx : decode Config.defaults 0xF718#16 = .ok (.ldStVx 0x7#4) := by decide
theorem test_decode_addI : decode Config.defaults 0xF31E#16 = .ok (.addI 0x3#4) := by decide
theorem test_decode_ldF : decode Config.defaults 0xF429#16 = .ok (.ldF 0x4#4) := by decide
theorem test_decode_ldB : decode Config.defaults 0xF833#16 = .ok (.ldB 0x8#4) := by decide
theorem test_decode_storeRegs : decode Config.defaults 0xF255#16 = .ok (.storeRegs 0x2#4) := by decide
theorem test_decode_loadRegs : decode Config.defaults 0xF965#16 = .ok (.loadRegs 0x9#4) := by decide
theorem test_decode_sys : decode Config.defaults 0x0123#16 = .ok (.sys 0x123#12) := by decide

/-- The bits R87 and R88 ignore by default, and those they do not under the other values. -/
theorem test_decode_ignored_bits :
    decode Config.defaults 0x01E0#16 = .ok .cls ∧ decode fullWord 0x01E0#16 = .ok (.sys 0x1E0#12) ∧
    decode Config.defaults 0x5121#16 = .ok (.seReg 0x1#4 0x2#4) ∧
    decode zeroN 0x5121#16 = .error .nibbleNotZero := by decide

/-- Unknown words (R91): the neighbours of class 0x8, 0xE and 0xF rows. -/
theorem test_decode_unknown :
    decode Config.defaults 0x8008#16 = .error .class8 ∧ decode Config.defaults 0x800F#16 = .error .class8 ∧
    decode Config.defaults 0xE1A2#16 = .error .classE ∧ decode Config.defaults 0xE000#16 = .error .classE ∧
    decode Config.defaults 0xF0FF#16 = .error .classF ∧ decode ref6 0x8124#16 = .error .notInProfile := by
  decide

/-- Fewer than two bytes are no word, and the bytes after a word are left (R80, R93). -/
theorem test_decode_bytes :
    decodeBytes Config.defaults [0x12#8] = .error .truncated ∧
    decodeBytes Config.defaults [0x12#8, 0x34#8, 0x56#8] = .ok (.jp 0x234#12, [0x56#8]) := by decide

theorem test_decode_table_word : decodeTableWord 16 0xD125 = some (.drw 0x1#4 0x2#4 0x5#4) := by decide

/-! ### The Step (V1, V2) -/

theorem test_v1_4_second_step_halts :
    goesTo (placed 0x6001) (fun t => t.pc == 0x202#16 && t.halted && goesTo t (fun u => u == t)) = true := by
  decide
theorem test_v1_9_unknown_words :
    [0x800F, 0x8008, 0xE000, 0xE1A2, 0xF0FF].all (fun w =>
      goesTo (placed w) (fun t => t.pc == 0x202#16 && t.diags == [⟨0x200#16, BitVec.ofNat 16 w⟩])) = true := by
  decide
theorem test_v2_1_fetch_faults_at_the_last_byte :
    faults ((withCfg (fun c => { c with memSize := 0x206 }) (placed 0)).setPc 0x205#16
      |> fun s => { s with endMarker := 0x205 }) (.fetchOob 0x205#16 0x206) = true := by decide

/-! ### Control transfer (V3) -/

theorem test_v1_8_sys : goesTo (placed 0x0123) (fun t =>
    t.pc == 0x202#16 && t.diags == [⟨0x200#16, 0x0123#16⟩]) = true := by decide
theorem test_v3_1_jp : goesTo (placed 0x1234) (fun t => t.pc == 0x234#16 && t.halted) = true := by decide
theorem test_v3_2_call : goesTo (placed 0x2300) (fun t =>
    t.stack == [0x202#16] && t.pc == 0x300#16) = true := by decide
theorem test_v3_6_call_overflow : faults (withCfg (fun c => { c with stackDepth := 1 })
    ((placed 0x2200).setStack [0x202#16])) (.stackOverflow 0x200#16) = true := by decide
theorem test_v3_3_ret : goesTo ((placed 0x00EE).setStack [0x208#16, 0x206#16]) (fun t =>
    t.stack == [0x208#16] && t.pc == 0x206#16) = true := by decide
theorem test_v3_4_ret_underflow : faults (placed 0x00EE) (.stackUnderflow 0x200#16) = true := by decide
theorem test_v3_8_jpV0_vx : goesTo (withCfg (fun c => { c with jumpOffsetReg := .vx })
    (((placed 0xB210).setV 0#4 0x05#8).setV 2#4 0x01#8)) (fun t => t.pc == 0x211#16) = true := by decide
theorem test_v3_9_jpV0 : goesTo ((placed 0xBFFF).setV 0#4 0xFF#8) (fun t =>
    t.pc == 0x10FE#16 && t.halted) = true := by decide

/-! ### Skips (V4) -/

theorem test_v4_1_seByte : goesTo ((placed 0x3A05).setV 0xA#4 0x05#8) (fun t => t.pc == 0x204#16) = true := by decide
theorem test_v4_2_seByte : goesTo ((placed 0x3A05).setV 0xA#4 0x06#8) (fun t => t.pc == 0x202#16) = true := by decide
theorem test_v4_3_sneByte : goesTo ((placed 0x4A05).setV 0xA#4 0x06#8) (fun t => t.pc == 0x204#16) = true := by decide
theorem test_v4_4_sneByte : goesTo ((placed 0x4A05).setV 0xA#4 0x05#8) (fun t => t.pc == 0x202#16) = true := by decide
theorem test_v4_6_seReg : goesTo (alu 0x5120 0x33#8 0x34#8 0#8) (fun t => t.pc == 0x202#16) = true := by decide
theorem test_v4_7_seReg : goesTo (alu 0x5121 0x33#8 0x33#8 0#8) (fun t => t.pc == 0x204#16) = true := by decide
theorem test_v4_9_sneReg : goesTo (alu 0x9120 0x33#8 0x34#8 0#8) (fun t => t.pc == 0x204#16) = true := by decide
theorem test_v4_11_sneReg : goesTo (alu 0x9110 0x09#8 0#8 0#8) (fun t => t.pc == 0x202#16) = true := by decide

/-! ### Registers and arithmetic (V5) -/

theorem test_v5_1_ldByte : goesTo (placed 0x6A42) (fun t => t.getV 0xA#4 == 0x42#8) = true := by decide
theorem test_v5_2_addByte : goesTo (((placed 0x7AFF).setV 0xA#4 0x05#8).setV 15#4 0x77#8) (fun t =>
    t.getV 0xA#4 == 0x04#8 && t.getV 15#4 == 0x77#8) = true := by decide
theorem test_v5_5_ldReg : goesTo (alu 0x8120 0#8 0x7F#8 0#8) (res 0x7F#8 0#8) = true := by decide
theorem test_v5_6_orReg : goesTo (alu 0x8121 0x0F#8 0xF0#8 1#8) (res 0xFF#8 0#8) = true := by decide
theorem test_v5_7_orReg_keeps_vf : goesTo (withCfg (fun c => { c with logicResetsVF := false })
    (alu 0x8121 0x0F#8 0xF0#8 1#8)) (res 0xFF#8 1#8) = true := by decide
theorem test_v5_8_andReg : goesTo (alu 0x8122 0x3C#8 0x0F#8 1#8) (res 0x0C#8 0#8) = true := by decide
theorem test_v5_9_xorReg : goesTo (alu 0x8123 0x3C#8 0x0F#8 0#8) (res 0x33#8 0#8) = true := by decide
theorem test_v5_11_xorReg_into_vf : goesTo (alu 0x8F13 0x3C#8 0#8 0x0F#8) (res 0x3C#8 0#8) = true := by decide
theorem test_v5_12_addReg : goesTo (alu 0x8124 0xC8#8 0x64#8 0#8) (res 0x2C#8 1#8) = true := by decide
theorem test_v5_17_addReg_reads_old_vf : goesTo (alu 0x81F4 0x10#8 0#8 1#8) (res 0x11#8 0#8) = true := by decide
theorem test_v5_18_subReg : goesTo (alu 0x8125 0x14#8 0x19#8 0#8) (res 0xFB#8 0#8) = true := by decide
theorem test_v5_20_subReg_equal : goesTo (alu 0x8125 0x33#8 0x33#8 0#8) (res 0x00#8 1#8) = true := by decide
theorem test_v5_23_subn : goesTo (alu 0x8127 0x14#8 0x19#8 0#8) (res 0x05#8 1#8) = true := by decide
theorem test_v5_24_subn : goesTo (alu 0x8127 0x01#8 0x00#8 0#8) (res 0xFF#8 0#8) = true := by decide
theorem test_v5_25_shr : goesTo (alu 0x8126 0x00#8 0x05#8 0#8) (res 0x02#8 1#8) = true := by decide
theorem test_v5_26_shr_vx : goesTo (withCfg (fun c => { c with shiftSrc := .vx })
    (alu 0x8126 0x00#8 0x05#8 0#8)) (res 0x00#8 0#8) = true := by decide
theorem test_v5_29_shl : goesTo (alu 0x812E 0#8 0x81#8 0#8) (res 0x02#8 1#8) = true := by decide
theorem test_v5_32_shl_into_vf : goesTo (alu 0x8F1E 0x80#8 0#8 0#8) (res 0x80#8 1#8) = true := by decide
theorem test_v5_33_rnd : goesTo ((placed 0xC30F).supplyDraws ⟨0#16, none, 0xA7#8⟩) (fun t =>
    t.getV 3#4 == 0x07#8) = true := by decide
theorem test_v5_36_rnd : goesTo ((placed 0xC3F0).supplyDraws ⟨0#16, none, 0x5A#8⟩) (fun t =>
    t.getV 3#4 == 0x50#8) = true := by decide

/-! ### Index and memory (V6) -/

theorem test_v6_2_ldI_unchecked : goesTo (withCfg (fun c => { c with memSize := 0x300 }) (placed 0xAFFF))
    (fun t => t.i == 0x0FFF#16) = true := by decide
theorem test_v6_4_addI_wraps : goesTo ((((placed 0xF31E).setI 0xFFFF#16).setV 3#4 0x01#8).setV 15#4 0x55#8)
    (fun t => t.i == 0x0000#16 && t.getV 15#4 == 0x55#8) = true := by decide
theorem test_v6_6_ldF_low_nibble : goesTo ((placed 0xF429).setV 4#4 0x1A#8) (fun t => t.i == 0x0082#16) = true := by
  decide
theorem test_v6_8_ldB : goesTo (((placed 0xF033).setV 0#4 254#8).setI 0x300#16) (fun t =>
    t.i == 0x300#16 && t.mem.wf &&
    [0x300, 0x301, 0x302].map t.mem.read == [2#8, 5#8, 4#8]) = true := by decide
theorem test_v6_10_ldB_faults : faults (((placed 0xF033).setV 0#4 0xFE#8).setI 0xFFE#16)
    (.memWriteOob 0x200#16 0x1000) = true := by decide
theorem test_v6_13_storeRegs : goesTo (withCfg (fun c => { c with ldiIncrementsI := false })
    ((((placed 0xF255).setV 0#4 0x02#8).setV 2#4 0x04#8).setI 0x310#16)) (fun t => t.i == 0x310#16 &&
    [0x310, 0x311, 0x312, 0x313].map t.mem.read == [2#8, 0#8, 4#8, 0#8]) = true := by decide
theorem test_v6_14_storeRegs_faults : faults ((placed 0xF255).setI 0xFFE#16)
    (.memWriteOob 0x200#16 0x1000) = true := by decide
theorem test_v6_15_loadRegs : goesTo (((withBytes (placed 0xF265) 0x300 [2#8, 5#8, 4#8]).setI 0x300#16).setV 3#4 0x99#8)
    (fun t => t.i == 0x303#16 && [0#4, 1#4, 2#4, 3#4].map t.getV == [2#8, 5#8, 4#8, 0x99#8]) = true := by decide
theorem test_v6_17_loadRegs_faults : faults ((placed 0xF165).setI 0xFFF#16)
    (.memReadOob 0x200#16 0x1000) = true := by decide

/-! ### Display (V7) -/

theorem test_v7_1_cls : goesTo ((placed 0x00E0).setDisp (lit [(3, 5)])) (fun t =>
    t.disp == lit [] && t.dirty) = true := by decide
theorem test_v7_10_drw_collision : goesTo ((sprite 0xD011 0#8 0#8 0x300#16 [0xC0#8]).setDisp (lit [(0, 1)]))
    (fun t => t.disp == lit [(0, 0)] && t.getV 15#4 == 1#8 && t.dirty) = true := by decide
theorem test_v7_7_drw_reads_before_clipping : faults (sprite 0xD013 0#8 30#8 0xFFE#16 [0x80#8, 0x80#8])
    (.memReadOob 0x200#16 0x1000) = true := by decide

/-! ### Timers and input (V8) -/

theorem test_ldVxDt : goesTo ((placed 0xF507).setDt 0x3A#8) (fun t => t.getV 5#4 == 0x3A#8) = true := by decide
theorem test_v8_2_ldDtVx : goesTo ((placed 0xF515).setV 5#4 0x3C#8) (fun t =>
    t.dt == 0x3C#8 && t.tick.tick.dt == 0x3A#8) = true := by decide
theorem test_v8_3_ldStVx : goesTo ((placed 0xF518).setV 5#4 0x02#8) (fun t =>
    t.st == 0x02#8 && t.tick.tick.tick.st == 0x00#8) = true := by decide
theorem test_v8_5_ldVxK_waits : goesTo ((placed 0xF30A).supplyDraws ⟨0#16, none, 0#8⟩) (fun t =>
    t.pc == 0x200#16 && t.getV 3#4 == 0#8) = true := by decide
theorem test_v8_6_ldVxK : goesTo ((placed 0xF30A).supplyDraws ⟨0#16, some 7#4, 0#8⟩) (fun t =>
    t.pc == 0x202#16 && t.getV 3#4 == 7#8) = true := by decide
theorem test_v8_8_skp : goesTo (((placed 0xE19E).setV 1#4 0x04#8).supplyDraws ⟨0x0008#16, none, 0#8⟩) (fun t =>
    t.pc == 0x202#16) = true := by decide
theorem test_v8_9_skp : goesTo (((placed 0xE19E).setV 1#4 0x14#8).supplyDraws ⟨0x0010#16, none, 0#8⟩) (fun t =>
    t.pc == 0x204#16) = true := by decide
theorem test_v8_10_sknp : goesTo (((placed 0xE1A1).setV 1#4 0x04#8).supplyDraws ⟨0x0000#16, none, 0#8⟩) (fun t =>
    t.pc == 0x204#16) = true := by decide
theorem test_v8_11_sknp : goesTo (((placed 0xE1A1).setV 1#4 0x04#8).supplyDraws ⟨0x0010#16, none, 0#8⟩) (fun t =>
    t.pc == 0x202#16) = true := by decide

/-! ### Construct and Load (V9) -/

theorem test_v9_illegal_configurations :
    Config.valid { Config.defaults with memSize := 0 } = false ∧
    Config.valid { Config.defaults with programStart := 4096 } = false ∧
    Config.valid { Config.defaults with spriteWidth := 16 } = false ∧
    Config.valid { Config.defaults with dispW := 0 } = false ∧
    Config.valid { Config.defaults with memSize := 65537 } = false := by decide
theorem test_v9_6_font : fontTable.length = 80 ∧
    fontTable.take 5 = [0xF0#8, 0x90#8, 0x90#8, 0x90#8, 0xF0#8] ∧
    fontTable.drop 75 = [0xF0#8, 0x80#8, 0xF0#8, 0x80#8, 0x80#8] := by decide
theorem test_v1_2_empty_load :
    (match State.reset.load (.bytes []) with
      | .ok t => t.loaded && t.halted && t.endMarker == 0x1FF
      | .error _ => false) = true := by decide
theorem test_v9_9_io_failure : State.reset.load .ioFailure = .error .io := rfl

/-! ### Witnesses: states and operands that meet the hypotheses of each obligation that has some -/

theorem witness_DecodeOfEncode :
    Instr.wellFormed Config.defaults (.storeRegs 0xF#4) = true ∧
    Instr.wellFormed ref6 (.ldI 0xFFF#12) = true ∧
    Instr.wellFormed fullWord (.sys 0x1E0#12) = true ∧
    Instr.wellFormed zeroN (.seReg 0x0#4 0xF#4) = true := by decide

theorem witness_DecodeIsExact :
    decode Config.defaults 0xDFFF#16 = .ok (.drw 0xF#4 0xF#4 0xF#4) ∧
    (decode Config.defaults 0x0FE0#16 = .ok .cls ∧ encode .cls = 0x0FE0#16 &&& 0xF0FF#16) ∧
    (decode Config.defaults 0x0FEE#16 = .ok .ret ∧ encode .ret = 0x0FEE#16 &&& 0xF0FF#16) ∧
    (decode Config.defaults 0x512F#16 = .ok (.seReg 1#4 2#4) ∧
      encode (.seReg 1#4 2#4) = 0x512F#16 &&& 0xFFF0#16) ∧
    (decode Config.defaults 0x912F#16 = .ok (.sneReg 1#4 2#4) ∧
      encode (.sneReg 1#4 2#4) = 0x912F#16 &&& 0xFFF0#16) := by decide

theorem witness_DecoderFollowsTable :
    decode Config.defaults 0xFF65#16 = .ok (.loadRegs 0xF#4) ∧
    (0x0FEE#16 &&& (tableRow .ret).1 = (tableRow .ret).2 ∧ ∀ nnn, Instr.ret ≠ .sys nnn) :=
  ⟨by decide, by decide, fun _ h => by cases h⟩

/-- A word of each of the six is known under REFERENCE6, and words that FULL alone decodes are not. -/
theorem witness_ReferenceSixKeepsSix :
    (decode { ref6 with opset := .full } 0xD125#16 = .ok (.drw 1#4 2#4 5#4) ∧
      isUnknown ref6 0xD125#16 = false) ∧
    ([0x00E0#16, 0x1FFF#16, 0x6FFF#16, 0x7FFF#16, 0xAFFF#16, 0xDFFF#16].all fun w => !isUnknown ref6 w) = true ∧
    ([0x00EE#16, 0x2300#16, 0x8124#16, 0xBFFF#16, 0xF033#16].all fun w => isUnknown ref6 w) = true := by decide

theorem witness_StepRunsDecoded_next :
    (atTop 0xFFE#16 [0x12#8, 0x34#8]).canFetch = true ∧
    decode (atTop 0xFFE#16 [0x12#8, 0x34#8]).cfg (atTop 0xFFE#16 [0x12#8, 0x34#8]).wordAtPc
      = .ok (.jp 0x234#12) ∧
    ∃ t, exec (.jp 0x234#12) ((atTop 0xFFE#16 [0x12#8, 0x34#8]).setPc 0x1000#16) = .next t :=
  ⟨by decide, by decide, next_of_completes (by decide)⟩

theorem witness_StepRunsDecoded_fault :
    (placed 0x00EE).canFetch = true ∧ decode (placed 0x00EE).cfg (placed 0x00EE).wordAtPc = .ok .ret ∧
    exec .ret ((placed 0x00EE).setPc ((placed 0x00EE).pc + 2#16)) = .fault (.stackUnderflow 0x200#16) :=
  ⟨by decide, by decide, fault_of_raises (by decide)⟩

theorem witness_FetchIsBigEndian :
    (atTop 0xFFE#16 [0x12#8, 0x34#8]).pc.toNat + 1 < (atTop 0xFFE#16 [0x12#8, 0x34#8]).cfg.memSize := by
  decide

theorem witness_UnknownOpcodeIsNoOp :
    ((placed 0xF0FF).canFetch = true ∧ isUnknown (placed 0xF0FF).cfg (placed 0xF0FF).wordAtPc = true) ∧
    ((placed 0x0123).canFetch = true ∧ isUnknown (placed 0x0123).cfg (placed 0x0123).wordAtPc = true) := by
  decide

theorem witness_HaltedUntilLoad :
    (State.reset.fault = none ∧ State.reset.loaded = false) ∧
    ((placed 0x6001).advancePc.fault = none ∧
      (placed 0x6001).advancePc.endMarker < ((placed 0x6001).advancePc.pc.toNat : Int)) ∧
    (∀ op ∈ [HostOp.tick, .step ⟨0#16, none, 0#8⟩, .acknowledgeRedraw], ∀ image, op ≠ .load image) := by
  refine ⟨by decide, by decide, fun op h image e => ?_⟩
  subst e
  simp at h

theorem witness_FatalFaultIsRecordedAndStays :
    ((placed 0x00EE).fault = none ∧ (placed 0x00EE).halted = false ∧
      step ((placed 0x00EE).supplyDraws ⟨0#16, none, 0#8⟩) = .fault (.stackUnderflow 0x200#16)) ∧
    (State.reset.recordFatal (.stackUnderflow 0x200#16)).fault = some (.stackUnderflow 0x200#16) :=
  ⟨⟨by decide, by decide, fault_of_faults (by decide)⟩, rfl⟩

theorem witness_FetchFaultsAtLastByte :
    ((atTop 0xFFF#16 []).Inv ∧ (atTop 0xFFF#16 []).fault = none ∧ (atTop 0xFFF#16 []).halted = false ∧
      (atTop 0xFFF#16 []).pc.toNat + 1 = (atTop 0xFFF#16 []).cfg.memSize) ∧
    ((atTop 0xFFE#16 []).Inv ∧ (atTop 0xFFE#16 []).fault = none ∧ (atTop 0xFFE#16 []).halted = false ∧
      (atTop 0xFFE#16 []).pc.toNat + 1 ≠ (atTop 0xFFE#16 []).cfg.memSize) :=
  ⟨⟨inv_of_check (by decide), by decide, by decide, by decide⟩,
    ⟨inv_of_check (by decide), by decide, by decide, by decide⟩⟩

theorem witness_FaultCauses :
    exec (.drw 0#4 1#4 1#4) ((placed 0).setI 0x1000#16) = .fault (.memReadOob 0x1FE#16 0x1000) ∧
    exec (.loadRegs 0#4) ((placed 0).setI 0x1000#16) = .fault (.memReadOob 0x1FE#16 0x1000) ∧
    exec (.ldB 0#4) ((placed 0).setI 0xFFE#16) = .fault (.memWriteOob 0x1FE#16 0x1000) ∧
    exec (.storeRegs 1#4) ((placed 0).setI 0xFFF#16) = .fault (.memWriteOob 0x1FE#16 0x1000) ∧
    exec (.call 0#12) ((placed 0).setStack (List.replicate 16 0#16)) = .fault (.stackOverflow 0x1FE#16) ∧
    exec .ret (placed 0) = .fault (.stackUnderflow 0x1FE#16) :=
  ⟨fault_of_raises (by decide), fault_of_raises (by decide), fault_of_raises (by decide),
    fault_of_raises (by decide), fault_of_raises (by decide), fault_of_raises (by decide)⟩

/-- A run of `n` Steps goes on. -/
def runsOn (n : Nat) (s : State) : Bool :=
  match core.run n s with
  | .next _ => true
  | .fault _ => false
  | .refused _ => false

theorem next_of_runsOn {n : Nat} {s : State} (h : runsOn n s = true) : ∃ t, core.run n s = .next t := by
  unfold runsOn at h
  split at h
  · exact ⟨_, by assumption⟩
  · cases h
  · cases h

/-- One Step, of a load of 1 into V0. -/
theorem witness_StraightRunAdvancesPc :
    (∀ k, k < 1 → ∃ u, core.run k (placed 0x6001) = .next u ∧ State.runsStraight u = true) ∧
    (∃ t, core.run 1 (placed 0x6001) = .next t) ∧ (placed 0x6001).pc.toNat + 2 * 1 < 65536 := by
  refine ⟨fun k hk => ?_, ?_, by decide⟩
  · obtain rfl : k = 0 := by omega
    exact ⟨placed 0x6001, rfl, by decide⟩
  · exact next_of_runsOn (by decide)

/-- The top of a memory of 65536 bytes: 0xFFFC + 2 does not pass 65535, and from 0xFFFE PC wraps to 0. -/
def atWrap (pc : Word) : State :=
  { withCfg (fun c => { c with memSize := 65536 }) ((withBytes (placed 0) pc.toNat [0x60#8, 0x01#8]).setPc pc) with
    endMarker := 0xFFFF }

theorem witness_StraightRunAdvancesPc_top :
    (State.runsStraight (atWrap 0xFFFC#16) = true ∧ (0xFFFC#16).toNat + 2 * 1 < 65536) ∧
    (State.runsStraight (atWrap 0xFFFE#16) = true ∧ ¬(0xFFFE#16).toNat + 2 * 1 < 65536 ∧
      goesTo (atWrap 0xFFFE#16) (fun t => t.pc == 0x0000#16) = true) := by decide

theorem witness_StepKeepsInvariant :
    (placed 0xD125).Inv ∧ ∃ t, step (placed 0xD125) = .next t ∧ t.drawCount = 1 := by
  refine ⟨inv_of_check (by decide), ?_⟩
  obtain ⟨t, ht, hp⟩ := next_of_goesTo (s := placed 0xD125) (p := fun t => decide (t.drawCount = 1)) (by decide)
  exact ⟨t, ht, by simpa using hp⟩

theorem witness_OperationsKeepInvariant : (placed 0x00EE).Inv := inv_of_check (by decide)

theorem witness_ConstructBuildsResetState :
    Config.valid { Config.defaults with programStart := 4096 } = false ∧
    Config.valid { Config.defaults with programStart := 4095 } = true ∧
    Config.valid { Config.defaults with fontPreload := true, fontBase := 4016 } = true ∧
    Config.valid { Config.defaults with fontPreload := true, fontBase := 4017 } = false := by decide

theorem witness_OnlyControlWritesPc :
    (∃ t, exec (.drw 0#4 1#4 5#4) (placed 0) = .next t) ∧ writesPc (.drw 0#4 1#4 5#4) = false :=
  ⟨next_of_completes (by decide), rfl⟩

theorem witness_OnlyClsAndDrwWriteDisplay :
    (placed 0).Inv ∧
    ((∃ t, exec (.storeRegs 2#4) (placed 0) = .next t) ∧ writesDisplay (.storeRegs 2#4) = false) ∧
    (∀ d, HostOp.tick ≠ .step d) :=
  ⟨inv_of_check (by decide), ⟨next_of_completes (by decide), rfl⟩, fun _ h => by cases h⟩

theorem witness_OnlyTheirOwnWriteMemoryStackIndex :
    (∃ t, exec (.loadRegs 2#4) (placed 0) = .next t) ∧ writesMemory (.loadRegs 2#4) = false ∧
    usesStack (.loadRegs 2#4) = false ∧
    (∃ t, exec (.ldB 2#4) (placed 0) = .next t) ∧ writesIndex (.ldB 2#4) = false :=
  ⟨next_of_completes (by decide), rfl, rfl, next_of_completes (by decide), rfl⟩

theorem witness_InstructionsLeaveEngineStatus :
    (∃ t, exec (.ldVxDt 2#4) (placed 0) = .next t) ∧ (∀ x, Instr.ldVxDt 2#4 ≠ .ldDtVx x) ∧
    (∀ x, Instr.ldVxDt 2#4 ≠ .ldStVx x) :=
  ⟨next_of_completes (by decide), (fun _ h => nomatch h), (fun _ h => nomatch h)⟩

theorem witness_DirtySetByDrawingClearedByAcknowledge :
    ((∃ t, exec (.drw 0#4 0#4 1#4) ((placed 0).setDirty true) = .next t) ∧
      ((placed 0).setDirty true).dirty = true) ∧
    (∃ t, exec .cls (placed 0) = .next t) ∧
    ((∃ t, exec (.jp 0#12) (placed 0) = .next t) ∧ writesDisplay (.jp 0#12) = false) ∧
    ((∀ d, HostOp.load .ioFailure ≠ .step d) ∧ HostOp.load .ioFailure ≠ .acknowledgeRedraw) :=
  ⟨⟨next_of_completes (by decide), rfl⟩, ⟨_, rfl⟩, ⟨⟨_, rfl⟩, rfl⟩, ⟨(fun _ h => nomatch h), by decide⟩⟩

theorem witness_DirtySetByDrawingClearedByAcknowledge_change :
    ∃ t, exec .cls ((placed 0).setDisp (lit [(3, 5)])) = .next t ∧
      ∃ r c, t.disp.get r c ≠ ((placed 0).setDisp (lit [(3, 5)])).disp.get r c :=
  ⟨_, rfl, 3, 5, by decide⟩

theorem witness_JumpSetsPc :
    (placed 0).fault = none ∧ (placed 0).endMarker < ((0x202#12).toNat : Int) ∧
    ¬(placed 0).endMarker < ((0x201#12).toNat : Int) := by decide

theorem witness_OffsetJumpSetsPc :
    (placed 0).cfg.jumpOffsetReg = .v0 ∧
    (withCfg (fun c => { c with jumpOffsetReg := .vx }) (placed 0)).cfg.jumpOffsetReg = .vx := by decide

theorem witness_CallPushesAndJumps :
    ((placed 0).setStack (List.replicate 15 0#16)).stack.length < (placed 0).cfg.stackDepth ∧
    ((placed 0).setStack (List.replicate 16 0#16)).stack.length = (placed 0).cfg.stackDepth := by decide

theorem witness_ReturnPopsPc :
    ((placed 0).setStack [0x206#16]).stack = [] ++ [0x206#16] ∧ (placed 0).stack = [] := by decide

theorem witness_LogicResults :
    (placed 0).cfg.logicResetsVF = true ∧
    (withCfg (fun c => { c with logicResetsVF := false }) (placed 0)).cfg.logicResetsVF = false ∧
    (14#4 : Reg) ≠ 15#4 := by decide

theorem witness_AddSetsCarry : (14#4 : Reg) ≠ 15#4 := by decide

theorem witness_SubtractionsSetNotBorrow : (0#4 : Reg) ≠ 15#4 := by decide

theorem witness_ShiftsSetShiftedOutBit :
    ((placed 0).cfg.shiftSrc = .vy ∧ ((placed 0).cfg.shiftSrc = .vx → (2#4 : Reg) = 1#4)) ∧
    ((withCfg (fun c => { c with shiftSrc := .vx }) (placed 0)).cfg.shiftSrc = .vx ∧
      ((withCfg (fun c => { c with shiftSrc := .vx }) (placed 0)).cfg.shiftSrc = .vy → (1#4 : Reg) = 2#4)) := by
  decide

theorem witness_RandomIsMasked : (0x0F#8).getLsbD 4 = false ∧ (0xF0#8).getLsbD 3 = false := by decide

theorem witness_MemoryReadsWhatWasWritten :
    ((placed 0x1234).mem.wf = true ∧ ∃ t, (placed 0x1234).writeByte 0xFFF 0x42#8 = .ok t) ∧
    ((∃ s, State.construct Config.defaults = .ok s) ∧ Config.defaults.fontPreload = false) :=
  ⟨⟨by decide, _, State.writeByte_ok (placed 0x1234) (by decide) 0x42#8⟩, ⟨_, rfl⟩, rfl⟩

theorem witness_AccessesAreBoundsChecked :
    0xFFF < (placed 0).cfg.memSize ∧ (placed 0).cfg.memSize ≤ 0x1000 := by decide

theorem witness_BcdStoresDigits :
    (placed 0xF033).mem.wf = true ∧
    ((placed 0xF033).setI 0xFFD#16).i.toNat + 2 < (placed 0xF033).cfg.memSize ∧
    (placed 0xF033).cfg.memSize ≤ ((placed 0xF033).setI 0xFFE#16).i.toNat + 2 := by decide

theorem witness_StoreRegistersWritesBlock :
    (placed 0xFF55).mem.wf = true ∧
    ((placed 0xFF55).setI 0xFF0#16).i.toNat + (0xF#4).toNat < (placed 0xFF55).cfg.memSize ∧
    (placed 0xFF55).cfg.memSize ≤ ((placed 0xFF55).setI 0xFF1#16).i.toNat + (0xF#4).toNat := by decide

theorem witness_LoadRegistersReadsBlock :
    ((placed 0xFF65).setI 0xFF0#16).i.toNat + (0xF#4).toNat < (placed 0xFF65).cfg.memSize ∧
    (placed 0xFF65).cfg.memSize ≤ ((placed 0xFF65).setI 0xFF1#16).i.toNat + (0xF#4).toNat := by decide

/-- Row 31, three rows: rows 0 and 1 are read, at 0xFFE and 0xFFF, and row 2 is not (V7.8). -/
theorem witness_DrawFlipsSpriteBits :
    (sprite 0xD013 0#8 31#8 0xFFE#16 [0x80#8, 0x80#8]).Inv ∧
    ∀ r, r < (3#4).toNat → ((sprite 0xD013 0#8 31#8 0xFFE#16 [0x80#8, 0x80#8]).getV 1#4).toNat %
        (sprite 0xD013 0#8 31#8 0xFFE#16 [0x80#8, 0x80#8]).cfg.dispH + r
          ≤ (sprite 0xD013 0#8 31#8 0xFFE#16 [0x80#8, 0x80#8]).cfg.dispH →
      (sprite 0xD013 0#8 31#8 0xFFE#16 [0x80#8, 0x80#8]).i.toNat + r
        < (sprite 0xD013 0#8 31#8 0xFFE#16 [0x80#8, 0x80#8]).cfg.memSize :=
  ⟨inv_of_check (by decide), by decide⟩

theorem witness_DrawCollision :
    ((sprite 0xD011 0#8 0#8 0x300#16 [0xC0#8]).setDisp (lit [(0, 1)])).Inv ∧
    ∃ t, exec (.drw 0#4 1#4 1#4) ((sprite 0xD011 0#8 0#8 0x300#16 [0xC0#8]).setDisp (lit [(0, 1)])) = .next t :=
  ⟨inv_of_check (by decide), next_of_completes (by decide)⟩

theorem witness_DrawDirty :
    ((sprite 0xD011 60#8 0#8 0x300#16 [0x0F#8]).setDirty true).Inv ∧
    ∃ t, exec (.drw 0#4 1#4 1#4) ((sprite 0xD011 60#8 0#8 0x300#16 [0x0F#8]).setDirty true) = .next t :=
  ⟨inv_of_check (by decide), next_of_completes (by decide)⟩

/-- Row 30, three rows: row 2 is read at 0x1000, before its clip test (V7.7). -/
theorem witness_DrawReadFaults :
    2 < (3#4).toNat ∧
    ((sprite 0xD013 0#8 30#8 0xFFE#16 []).getV 1#4).toNat % (placed 0).cfg.dispH + 2 ≤ (placed 0).cfg.dispH ∧
    (placed 0).cfg.memSize ≤ (sprite 0xD013 0#8 30#8 0xFFE#16 []).i.toNat + 2 ∧
    (∀ k, k < 2 → (sprite 0xD013 0#8 30#8 0xFFE#16 []).i.toNat + k < (placed 0).cfg.memSize) := by decide

/-- The draw completes, and so does the second one after it. -/
def drawsTwice (s : State) (x y : Reg) (n : Nibble) : Bool :=
  match exec (.drw x y n) s with
  | .next t => completes (.drw x y n) t
  | .fault _ => false
  | .refused _ => false

theorem witness_DrawTwiceRestores :
    (sprite 0xD011 0#8 0#8 0x300#16 [0xC0#8]).Inv ∧ (0#4 : Reg) ≠ 15#4 ∧ (1#4 : Reg) ≠ 15#4 ∧
    ∃ t u, exec (.drw 0#4 1#4 1#4) (sprite 0xD011 0#8 0#8 0x300#16 [0xC0#8]) = .next t ∧
      exec (.drw 0#4 1#4 1#4) t = .next u := by
  refine ⟨inv_of_check (by decide), by decide, by decide, ?_⟩
  have h : drawsTwice (sprite 0xD011 0#8 0#8 0x300#16 [0xC0#8]) 0#4 1#4 1#4 = true := by decide
  cases he : exec (.drw 0#4 1#4 1#4) (sprite 0xD011 0#8 0#8 0x300#16 [0xC0#8]) with
  | next t =>
    obtain ⟨u, hu⟩ := next_of_completes (i := .drw 0#4 1#4 1#4) (s := t) (by simpa [drawsTwice, he] using h)
    exact ⟨t, u, rfl, hu⟩
  | fault f => simp [drawsTwice, he] at h
  | refused r => simp [drawsTwice, he] at h

theorem witness_RenderingContract : (placed 0x00E0).Inv := inv_of_check (by decide)

theorem witness_KeyWaitRepeatsOrLoads :
    ((placed 0xF30A).supplyDraws ⟨0#16, none, 0#8⟩).draws.keyEvent = none ∧
    ((placed 0xF30A).supplyDraws ⟨0#16, some 15#4, 0#8⟩).draws.keyEvent = some 15#4 := by decide

theorem witness_FailedLoadChangesNothing :
    (transact (.load .ioFailure) State.reset).2 = .loadFailed .io := rfl

/-- 3585 bytes do not fit, and 3584 do (V9.7, V9.8). -/
theorem witness_LoadFailures : State.reset.cfg.memSize <
    State.reset.cfg.programStart + (List.replicate 3585 0#8).length := by
  rw [List.length_replicate]; decide

theorem witness_LoadSuccess : State.reset.mem.wf = true ∧
    State.reset.cfg.programStart + (List.replicate 3584 0#8).length ≤ State.reset.cfg.memSize := by
  rw [List.length_replicate]; decide

end Sys2Proof.Tests
end

section
/-!
PROOFS. The dirty flag (10_state.md R30, 45_display.md R235): what a draw does to it, what every other
instruction leaves as it was, and which host operations reach it.
-/

namespace Sys2Proof.Machine

/-! ### A draw sets the dirty flag or changes nothing -/

/-- The bits of one sprite row: the first cell flipped sets the dirty flag (R228). -/
theorem Canvas.drawBits_dirty_or_eq (w x0 row : Nat) (b : Byte) (js : List Nat) (c : Canvas) :
    (c.drawBits w x0 row b js).dirty = true ∨ c.drawBits w x0 row b js = c := by
  induction js generalizing c with
  | nil => exact .inr rfl
  | cons j js ih =>
    simp only [Canvas.drawBits]
    split
    · exact .inr rfl
    · split
      · rcases ih (c.flip row (x0 + j)) with hd | he
        · exact .inl hd
        · rw [he]; exact .inl rfl
      · exact ih c

/-- The rows of a sprite (R225): a draw that completes sets the dirty flag or leaves the canvas. -/
theorem State.drawRows_dirty_or_eq {s : State} {x0 y0 n r : Nat} {c c' : Canvas}
    (h : s.drawRows x0 y0 n r c = .ok c') : c'.dirty = true ∨ c' = c := by
  induction n generalizing r c with
  | zero => cases h; exact .inr rfl
  | succ n ih =>
    simp only [State.drawRows] at h
    split at h
    · cases h
    · split at h
      · cases h; exact .inr rfl
      · rename_i b _ _
        rcases ih h with hd | rfl
        · exact .inl hd
        · exact Canvas.drawBits_dirty_or_eq s.cfg.dispW x0 (y0 + r) b spriteCols c

/-- DRW that completes leaves its finished canvas in the state (R225). -/
theorem exec_drw_next {x y : Reg} {n : Nibble} {s t : State} (h : exec (.drw x y n) s = .next t) :
    ∃ c, s.drawSprite x y n = .ok c ∧ t = s.setCanvas c := by
  simp only [exec, execDrw] at h
  split at h
  · rename_i c hc; cases h; exact ⟨c, hc, rfl⟩
  · cases h

theorem exec_drw_dirty_or_same {x y : Reg} {n : Nibble} {s t : State}
    (h : exec (.drw x y n) s = .next t) :
    t.dirty = true ∨ (t.disp = s.disp ∧ t.dirty = s.dirty) := by
  obtain ⟨c, hc, rfl⟩ := exec_drw_next h
  rcases State.drawRows_dirty_or_eq hc with hd | rfl
  · exact .inl hd
  · exact .inr ⟨rfl, rfl⟩

/-! ### What every instruction but CLS and DRW leaves as it was -/

/-- An instruction that is neither CLS nor DRW writes none of the configuration, the display, the dirty
flag, the engine's status (R36) and the draws. -/
theorem exec_next_frame {i : Instr} {s t : State} (h : exec i s = .next t) (hi : writesDisplay i = false) :
    t = { t with
      cfg := s.cfg, disp := s.disp, dirty := s.dirty, loaded := s.loaded, endMarker := s.endMarker,
      fault := s.fault, envDraws := s.envDraws, drawCount := s.drawCount } := by
  cases i with
  | cls | drw _ _ _ => cases hi
  | ret =>
    simp only [exec, execRet] at h
    rcases State.pop_cases s with ⟨l, w, -, hp⟩ | ⟨-, hp⟩
    · rw [hp] at h; cases h; rfl
    · rw [hp] at h; cases h
  | call nnn =>
    simp only [exec, execCall] at h
    rcases State.push_cases s s.pc with ⟨-, hp⟩ | ⟨-, hp⟩
    · rw [hp] at h; cases h; rfl
    · rw [hp] at h; cases h
  | orReg _ _ | andReg _ _ | xorReg _ _ => cases h; rw [State.setLogic_eq]
  | seByte _ _ | sneByte _ _ | seReg _ _ | sneReg _ _ | skp _ | sknp _ => cases h; rw [State.skipWhen_eq]
  | ldVxK x => cases h; split <;> rfl
  | ldB x =>
    simp only [exec, execLdB] at h
    cases hs : s.storeBytes (s.indexAddr 0) (bcdDigits (s.getV x)) with
    | ok u => rw [hs] at h; cases h; rw [(State.storeBytes_next hs).1]; rfl
    | error f => rw [hs] at h; cases h
  | storeRegs x =>
    simp only [exec, execStoreRegs] at h
    split at h
    · rename_i u hu; cases h; rw [State.advanceI_eq, (State.storeBytes_next hu).1]; rfl
    · cases h
  | loadRegs x =>
    simp only [exec, execLoadRegs] at h
    split at h
    · rename_i u hu
      obtain ⟨v, rfl⟩ := State.loadV_next hu
      cases h; rw [State.advanceI_eq]
    · cases h
  | jp _ | jpV0 _ | sys _ | ldByte _ _ | addByte _ _ | ldReg _ _ | addReg _ _ | subReg _ _ | shr _ _
  | subn _ _ | shl _ _ | rnd _ _ | ldI _ | addI _ | ldF _ | ldVxDt _ | ldDtVx _ | ldStVx _ =>
    cases h; rfl

theorem exec_next_disp {i : Instr} {s t : State} (h : exec i s = .next t) (hi : writesDisplay i = false) :
    t.disp = s.disp := by
  rw [exec_next_frame h hi]

theorem exec_next_dirty {i : Instr} {s t : State} (h : exec i s = .next t) (hi : writesDisplay i = false) :
    t.dirty = s.dirty := by
  rw [exec_next_frame h hi]

/-! ### All instructions -/

theorem exec_cls_dirty {s t : State} (h : exec .cls s = .next t) : t.dirty = true := by
  cases h; rfl

/-- After every instruction that completes, the dirty flag is set, or neither it nor the display
changed. -/
theorem exec_next_dirty_or_same {i : Instr} {s t : State} (h : exec i s = .next t) :
    t.dirty = true ∨ (t.disp = s.disp ∧ t.dirty = s.dirty) := by
  cases hi : writesDisplay i with
  | false => exact .inr ⟨exec_next_disp h hi, exec_next_dirty h hi⟩
  | true =>
    cases i with
    | cls => exact .inl (exec_cls_dirty h)
    | drw x y n => exact exec_drw_dirty_or_same h
    | _ => cases hi

/-! ### The host's operations -/

/-- A Load, successful or not, leaves the dirty flag (R305, R306). -/
theorem transact_load_dirty (im : Image) (s : State) : (transact (.load im) s).1.dirty = s.dirty := by
  simp only [transact]
  split
  · rename_i t ht
    obtain ⟨_, _, _, rfl⟩ := State.load_ok ht
    rfl
  · rfl

theorem transact_dirty {op : HostOp} (s : State) (hstep : ∀ d, op ≠ .step d)
    (hack : op ≠ .acknowledgeRedraw) : (transact op s).1.dirty = s.dirty := by
  cases op with
  | load im => exact transact_load_dirty im s
  | step d => exact absurd rfl (hstep d)
  | acknowledgeRedraw => exact absurd rfl hack
  | tick | shouldRedraw | snapshot => rfl

/-- Settles O25: an instruction sets the dirty flag or leaves both it and the display, and no host
operation but a Step and AcknowledgeRedraw reaches the flag. -/
theorem dirtySetByDrawingClearedByAcknowledge : Obligations.DirtySetByDrawingClearedByAcknowledge := by
  refine ⟨fun i s t h => ⟨?cls, ?changed, ?kept, ?frame⟩, fun _ s => transact_dirty s, fun _ => rfl⟩
  case cls =>
    rintro rfl
    exact exec_cls_dirty h
  case changed =>
    rintro ⟨r, c, hne⟩
    rcases exec_next_dirty_or_same h with hd | ⟨hdisp, -⟩
    · exact hd
    · exact absurd (hdisp ▸ rfl) hne
  case kept =>
    intro hs
    rcases exec_next_dirty_or_same h with hd | ⟨-, hsame⟩
    · exact hd
    · exact hsame.trans hs
  case frame => exact exec_next_dirty h

end Sys2Proof.Machine
end

section
/-!
PROOFS. Memory (20_memory.md R56, R58, R64): what the fetched word is in numbers, what a checked write
leaves behind, and what a constructed engine's memory reads as.
-/

namespace Sys2Proof.Machine

/-! ### The fetched word in numbers -/

/-- R58: the first byte is the high one. -/
theorem wordOfBytes_toNat (hi lo : Byte) : (wordOfBytes hi lo).toNat = 256 * hi.toNat + lo.toNat :=
  calc (wordOfBytes hi lo).toNat
      = hi.toNat <<< 8 ||| lo.toNat := BitVec.toNat_append hi lo
    _ = hi.toNat <<< 8 + lo.toNat := (Nat.shiftLeft_add_eq_or_of_lt lo.isLt hi.toNat).symm
    _ = 256 * hi.toNat + lo.toNat := by rw [Nat.shiftLeft_eq, Nat.mul_comm]

/-- Settles O8: a fetch with both bytes in range answers their word, high byte first. -/
theorem fetchIsBigEndian : Obligations.FetchIsBigEndian :=
  fun s h => ⟨_, State.fetch_ok s h, wordOfBytes_toNat _ _⟩

/-! ### A checked write and the memory of a constructed engine -/

/-- A checked write that is answered was in range, and only memory changed (R56, R64). -/
theorem State.writeByte_eq_ok {s t : State} {a : Nat} {b : Byte} (h : s.writeByte a b = .ok t) :
    a < s.cfg.memSize ∧ t = s.setMem (s.mem.write a b) := by
  rcases Nat.lt_or_ge a s.cfg.memSize with ha | ha
  · rw [State.writeByte_ok s ha] at h; cases h; exact ⟨ha, rfl⟩
  · rw [State.writeByte_error s ha] at h; cases h

/-- Without the font, Construct answers R40's table as it stands (R301). -/
theorem State.construct_eq_ok_of_no_font {c : Config} {s : State} (h : State.construct c = .ok s)
    (hfont : c.fontPreload = false) : s = State.zeroed c := by
  simp only [State.construct, hfont] at h
  split at h
  · cases h; rfl
  · cases h

/-- Settles O40, from read after write on the canonical form; construction lists no address. -/
theorem memoryReadsWhatWasWritten : Obligations.MemoryReadsWhatWasWritten := by
  refine ⟨fun s t a b hwf h => ?written, fun c s a h hfont => ?constructed⟩
  case written =>
    obtain ⟨ha, rfl⟩ := State.writeByte_eq_ok h
    refine ⟨fun kind => ?same, fun x hx => ?other, rfl⟩
    case same =>
      rw [State.readByte_ok (s.setMem (s.mem.write a b)) kind ha, State.setMem_mem, Memory.read_write hwf,
        if_pos rfl]
    case other => rw [State.setMem_mem, Memory.read_write hwf, if_neg hx]
  case constructed =>
    rw [State.construct_eq_ok_of_no_font h hfont, State.zeroed_mem]
    exact Memory.read_nil a

end Sys2Proof.Machine
end

section
/-!
PROOFS. Encoding (30_encoding.md R81, R82): the fields of a word nest, NN in NNN and NNN in the word,
and so do the three layouts.
-/

namespace Sys2Proof

/-! ### The fields of a word put back together -/

/-- NN is Y above N (R81). -/
theorem fieldsOf_y_append_n (w : Word) : ((fieldsOf w).y ++ (fieldsOf w).n : Byte) = (fieldsOf w).nn :=
  BitVec.extractLsb'_append_extractLsb'_eq_extractLsb' rfl

/-- NNN is X above NN (R81). -/
theorem fieldsOf_x_append_nn (w : Word) :
    ((fieldsOf w).x ++ (fieldsOf w).nn : Addr12) = (fieldsOf w).nnn :=
  BitVec.extractLsb'_append_extractLsb'_eq_extractLsb' rfl

/-- The layout `class ++ X ++ Y ++ N` is `class ++ X ++ NN` at NN = Y ++ N (R82). -/
theorem wordXYN_eq_wordXNN (c : BitVec 4) (x y : Reg) (n : Nibble) :
    wordXYN c x y n = wordXNN c x (y ++ n : BitVec (4 + 4)) :=
  BitVec.append_assoc

/-- The layout `class ++ X ++ NN` is `class ++ NNN` at NNN = X ++ NN (R82). -/
theorem wordXNN_eq_wordNNN (c : BitVec 4) (x : Reg) (nn : Byte) :
    wordXNN c x nn = wordNNN c (x ++ nn : BitVec (4 + 8)) :=
  BitVec.append_assoc

/-- R82, `class ++ NNN`: the two fields are adjacent and cover the word. -/
theorem wordNNN_fieldsOf (w : Word) : wordNNN (fieldsOf w).cls (fieldsOf w).nnn = w :=
  calc wordNNN (fieldsOf w).cls (fieldsOf w).nnn
      = w.extractLsb' 0 (4 + 12) := BitVec.extractLsb'_append_extractLsb'_eq_extractLsb' rfl
    _ = w := BitVec.extractLsb'_eq_self

/-- R82, `class ++ X ++ NN`. -/
theorem wordXNN_fieldsOf (w : Word) : wordXNN (fieldsOf w).cls (fieldsOf w).x (fieldsOf w).nn = w := by
  rw [wordXNN_eq_wordNNN, fieldsOf_x_append_nn, wordNNN_fieldsOf]

/-- R82, `class ++ X ++ Y ++ N`. -/
theorem wordXYN_fieldsOf (w : Word) :
    wordXYN (fieldsOf w).cls (fieldsOf w).x (fieldsOf w).y (fieldsOf w).n = w := by
  rw [wordXYN_eq_wordXNN, fieldsOf_y_append_n, wordXNN_fieldsOf]

/-- Settles O1, layout by layout. -/
theorem fieldsRecoverWord : Obligations.FieldsRecoverWord :=
  fun w => ⟨wordXYN_fieldsOf w, wordNNN_fieldsOf w, wordXNN_fieldsOf w⟩

end Sys2Proof
end

section
/-!
PROOFS. The display (45_display.md R220, R227, R228, R233, R234): its size, who writes it, what a draw
that completes leaves in its cells, VF and the dirty flag, and what the renderer reads.
-/

namespace Sys2Proof.Machine

/-! ### The size of the display and who writes it -/

/-- R29: the invariant's check of the display's size, in numbers of rows and columns. -/
theorem State.Inv.disp_rows {s : State} (hi : s.Inv) :
    s.disp.length = s.cfg.dispH ∧ ∀ row ∈ s.disp, row.length = s.cfg.dispW :=
  (Grid.hasSize_iff _ _ _).mp hi.dispSize

/-- A Load, successful or not, leaves the display (R305, R306). -/
theorem transact_load_disp (im : Image) (s : State) : (transact (.load im) s).1.disp = s.disp := by
  simp only [transact]
  split
  · rename_i t ht
    obtain ⟨_, _, _, rfl⟩ := State.load_ok ht
    rfl
  · rfl

theorem transact_disp {op : HostOp} (s : State) (hstep : ∀ d, op ≠ .step d) :
    (transact op s).1.disp = s.disp := by
  cases op with
  | load im => exact transact_load_disp im s
  | step d => exact absurd rfl (hstep d)
  | tick | shouldRedraw | snapshot | acknowledgeRedraw => rfl

/-- Settles O22: the invariant gives the size, every other instruction keeps the display, and no host
operation but a Step reaches it. -/
theorem onlyClsAndDrwWriteDisplay : Obligations.OnlyClsAndDrwWriteDisplay :=
  ⟨fun _ hi => hi.disp_rows, fun _ _ _ => exec_next_disp, fun _ s => transact_disp s⟩

/-- Settles O53: both operations answer a field and hand back the state they were given. -/
theorem renderingContract : Obligations.RenderingContract :=
  fun _ => ⟨rfl, rfl, State.Inv.disp_rows⟩

/-! ### What a draw that completes leaves behind -/

theorem flagByte_eq_one_or_zero (b : Bool) : flagByte b = 1#8 ∨ flagByte b = 0#8 := by
  cases b with
  | true => exact .inl rfl
  | false => exact .inr rfl

@[simp] theorem State.setCanvas_disp (s : State) (c : Canvas) : (s.setCanvas c).disp = c.grid := rfl
@[simp] theorem State.setCanvas_dirty (s : State) (c : Canvas) : (s.setCanvas c).dirty = c.dirty := rfl
@[simp] theorem State.getV_vf_setCanvas (s : State) (c : Canvas) :
    (s.setCanvas c).getV vf = flagByte c.hit :=
  State.getV_setV_same _ vf _

section
variable {s t : State} {x y : Reg} {n : Nibble}

/-- DRW flips the cells under the sprite's 1-bits and no others (R225). -/
theorem exec_drw_disp_get (hi : s.Inv) (h : exec (.drw x y n) s = .next t) (r c : Nat) :
    t.disp.get r c = (s.disp.get r c ^^ s.spriteBit (s.originX x) (s.originY y) n.toNat r c) := by
  obtain ⟨cv, hcv, rfl⟩ := exec_drw_next h
  obtain ⟨-, hget, -, -⟩ := State.drawSprite_spec hi.dispSize hcv
  rw [State.setCanvas_disp, hget]

/-- A cell changed exactly where a 1-bit fell: under XOR a 1-bit always changes its cell (R228). -/
theorem exec_drw_disp_ne_iff (hi : s.Inv) (h : exec (.drw x y n) s = .next t) (r c : Nat) :
    t.disp.get r c ≠ s.disp.get r c ↔
      s.spriteBit (s.originX x) (s.originY y) n.toNat r c = true := by
  rw [exec_drw_disp_get hi h]
  cases s.disp.get r c <;> simp

/-- A cell turned off exactly where a 1-bit fell on a lit cell (R227). -/
theorem exec_drw_turned_off_iff (hi : s.Inv) (h : exec (.drw x y n) s = .next t) (r c : Nat) :
    (s.disp.get r c = true ∧ t.disp.get r c = false) ↔
      s.spriteBit (s.originX x) (s.originY y) n.toNat r c = true ∧ s.disp.get r c = true := by
  rw [exec_drw_disp_get hi h]
  cases s.disp.get r c <;> simp

/-- VF after a draw is a flag (R227). -/
theorem exec_drw_vf_one_or_zero (h : exec (.drw x y n) s = .next t) :
    t.getV vf = 1#8 ∨ t.getV vf = 0#8 := by
  obtain ⟨cv, -, rfl⟩ := exec_drw_next h
  rw [State.getV_vf_setCanvas]
  exact flagByte_eq_one_or_zero cv.hit

/-- VF after a draw is 1 exactly when some 1-bit fell on a lit cell (R227). -/
theorem exec_drw_vf_eq_one_iff (hi : s.Inv) (h : exec (.drw x y n) s = .next t) :
    t.getV vf = 1#8 ↔ ∃ r c,
      s.spriteBit (s.originX x) (s.originY y) n.toNat r c = true ∧ s.disp.get r c = true := by
  obtain ⟨cv, hcv, rfl⟩ := exec_drw_next h
  obtain ⟨-, -, hhit, -⟩ := State.drawSprite_spec hi.dispSize hcv
  rw [State.getV_vf_setCanvas, flagByte_eq_one, hhit]

/-- The dirty flag after a draw (R228). -/
theorem exec_drw_dirty_iff (hi : s.Inv) (h : exec (.drw x y n) s = .next t) :
    t.dirty = true ↔ s.dirty = true ∨ ∃ r c,
      s.spriteBit (s.originX x) (s.originY y) n.toNat r c = true := by
  obtain ⟨cv, hcv, rfl⟩ := exec_drw_next h
  obtain ⟨-, -, -, hdirty⟩ := State.drawSprite_spec hi.dispSize hcv
  rw [State.setCanvas_dirty, hdirty]

end

/-- Settles O49: the lit cells a 1-bit fell on are the cells the draw turned off. -/
theorem drawCollision : Obligations.DrawCollision := by
  intro s t x y n hi h
  refine ⟨exec_drw_vf_one_or_zero h, ?_⟩
  simp only [exec_drw_turned_off_iff hi h]
  exact exec_drw_vf_eq_one_iff hi h

/-- Settles O50: the cells a 1-bit fell on are the cells the draw changed. -/
theorem drawDirty : Obligations.DrawDirty := by
  intro s t x y n hi h
  refine ⟨exec_drw_dirty_iff hi h, ?_⟩
  simp only [exec_drw_disp_ne_iff hi h]
  exact exec_drw_dirty_iff hi h

end Sys2Proof.Machine
end

section
/-!
PROOFS. Load (70_reset_and_hazards.md R304): when it fails, and what a failure answers.
-/

namespace Sys2Proof.Machine

/-- A Load that fails answers its error and hands back the state it was given (R306). -/
theorem transact_load_error {s : State} {im : Image} {e : LoadError} (h : s.load im = .error e) :
    transact (.load im) s = (s, .loadFailed e) := by
  simp only [transact, h]

/-- A failure of the byte source is the failure of the Load (R304). -/
theorem State.load_ioFailure (s : State) : s.load .ioFailure = .error .io := rfl

/-- An image that would end beyond memory is refused whole (R304). -/
theorem State.load_bytes_tooLong {s : State} {l : List Byte}
    (hlen : s.cfg.memSize < s.cfg.programStart + l.length) :
    s.load (.bytes l) = .error .outOfBounds :=
  if_neg (Nat.not_le.mpr hlen)

/-- Settles O57: either failure leaves the whole state, and so the fault record. -/
theorem loadFailures : Obligations.LoadFailures := by
  intro s
  refine ⟨?io, fun l hlen => ?tooLong⟩
  case io => rw [transact_load_error s.load_ioFailure]
  case tooLong =>
    rw [transact_load_error (State.load_bytes_tooLong hlen)]
    exact ⟨rfl, rfl⟩

end Sys2Proof.Machine
end

section
/-!
PROOFS. Encoding (30_encoding.md R84 to R92): the decoder undoes the encoder, answers an instruction for
exactly its words, and follows the rows of the opcode table; what the two profiles share.
-/

namespace Sys2Proof

/-! ### The decoder, case by case -/

/-- R89, R90: the decoder is the dispatch, cut down to the profile. -/
theorem decode_eq_ok_iff {c : Config} {w : Word} {i : Instr} :
    decode c w = .ok i ↔ decodeFull c w = .ok i ∧ c.opset.admits i = true := by
  refine ⟨decode_ok, fun ⟨hfull, hadm⟩ => ?_⟩
  simp only [decode, hfull, hadm, if_true]

theorem decodeClass0_cls {c : Config} {nnn : Addr12} (h : class0Selects c.class0Match clsByte nnn = true) :
    decodeClass0 c nnn = .ok .cls := if_pos h

/-- No twelve bits select both CLS and RET: their low bytes differ (R87). -/
theorem class0Selects_cls_of_ret {m : Class0Match} {nnn : Addr12}
    (h : class0Selects m retByte nnn = true) : class0Selects m clsByte nnn = false := by
  cases m with
  | lowByte =>
    simp only [class0Selects, beq_iff_eq] at h
    simp only [class0Selects, h]; rfl
  | fullWord =>
    simp only [class0Selects, beq_iff_eq] at h
    simp only [class0Selects, h]; rfl

theorem decodeClass0_ret {c : Config} {nnn : Addr12} (h : class0Selects c.class0Match retByte nnn = true) :
    decodeClass0 c nnn = .ok .ret := by
  simp only [decodeClass0, class0Selects_cls_of_ret h, h, if_true, Bool.false_eq_true, if_false]

theorem decodeClass0_sys {c : Config} {nnn : Addr12}
    (h : (Instr.sys nnn).sysDistinct c.class0Match = true) : decodeClass0 c nnn = .ok (.sys nnn) := by
  simp only [Instr.sysDistinct, Bool.not_eq_true', Bool.or_eq_false_iff] at h
  simp only [decodeClass0, h, Bool.false_eq_true, if_false]

/-- N = 0 is accepted whether or not the configuration asks for it (R88). -/
theorem decodeClass59_zero (c : Config) (i : Instr) : decodeClass59 c 0#4 i = .ok i := by
  unfold decodeClass59; split <;> rfl

theorem decodeClass59_ignoreN {c : Config} (h : c.class59Match = .ignoreN) (n : Nibble) (i : Instr) :
    decodeClass59 c n i = .ok i := by
  simp only [decodeClass59, h]

/-- The low byte of CLS and of RET selects it under either `CLASS0_MATCH` (R87). -/
theorem class0Selects_zero (m : Class0Match) (key : Byte) :
    class0Selects m key (0#4 ++ key : BitVec (4 + 8)) = true := by
  cases m with
  | lowByte => exact beq_iff_eq.mpr BitVec.extractLsb'_append_eq_right
  | fullWord => exact beq_self_eq_true _

/-- R86: the dispatch undoes the encoder, a SYS being one that is no CLS and no RET. -/
theorem decodeFull_encode {c : Config} {i : Instr} (h : i.sysDistinct c.class0Match = true) :
    decodeFull c (encode i) = .ok i := by
  cases i with
  | cls => exact decodeClass0_cls (class0Selects_zero c.class0Match clsByte)
  | ret => exact decodeClass0_ret (class0Selects_zero c.class0Match retByte)
  | sys nnn =>
    rw [encode, decodeFull, fieldsOf_wordNNN]
    exact decodeClass0_sys h
  | jp _ | call _ | ldI _ | jpV0 _ => rw [encode, decodeFull, fieldsOf_wordNNN]; rfl
  | seReg x y | sneReg x y =>
    rw [encode, decodeFull, fieldsOf_wordXYN]
    exact decodeClass59_zero c _
  | ldReg _ _ | orReg _ _ | andReg _ _ | xorReg _ _ | addReg _ _ | subReg _ _ | shr _ _ | subn _ _
  | shl _ _ | drw _ _ _ => rw [encode, decodeFull, fieldsOf_wordXYN]; rfl
  | seByte _ _ | sneByte _ _ | ldByte _ _ | addByte _ _ | rnd _ _ | skp _ | sknp _ | ldVxDt _
  | ldVxK _ | ldDtVx _ | ldStVx _ | addI _ | ldF _ | ldB _ | storeRegs _ | loadRegs _ =>
    rw [encode, decodeFull, fieldsOf_wordXNN]; rfl

theorem Instr.wellFormed_iff {c : Config} {i : Instr} :
    i.wellFormed c = true ↔ c.opset.admits i = true ∧ i.sysDistinct c.class0Match = true := by
  simp only [Instr.wellFormed, Bool.and_eq_true]

/-- Settles O2: the dispatch undoes the encoder, and the profile has the instruction. -/
theorem decodeOfEncode : Obligations.DecodeOfEncode := by
  intro c i h
  obtain ⟨hadm, hsys⟩ := Instr.wellFormed_iff.mp h
  exact decode_eq_ok_iff.mpr ⟨decodeFull_encode hsys, hadm⟩

/-! ### The words an instruction is decoded from -/

/-- `w` is the word of `i`, up to the bits the configuration ignores (R87, R88). -/
def encodesUpToIgnored (c : Config) (w : Word) (i : Instr) : Prop :=
  encode i = w ∨
    (c.class0Match = .lowByte ∧ (i = .cls ∨ i = .ret) ∧ encode i = w &&& 0xF0FF#16) ∨
    (c.class59Match = .ignoreN ∧ ((∃ x y, i = .seReg x y) ∨ ∃ x y, i = .sneReg x y) ∧
      encode i = w &&& 0xFFF0#16)

section
variable {w : Word} {k : Nat}

theorem wordNNN_of_cls (h : (fieldsOf w).cls.toNat = k) :
    wordNNN (BitVec.ofNat 4 k) (fieldsOf w).nnn = w := by
  rw [← h, BitVec.ofNat_toNat, BitVec.setWidth_eq, wordNNN_fieldsOf]

theorem wordXNN_of_cls (h : (fieldsOf w).cls.toNat = k) :
    wordXNN (BitVec.ofNat 4 k) (fieldsOf w).x (fieldsOf w).nn = w := by
  rw [← h, BitVec.ofNat_toNat, BitVec.setWidth_eq, wordXNN_fieldsOf]

theorem wordXYN_of_cls (h : (fieldsOf w).cls.toNat = k) :
    wordXYN (BitVec.ofNat 4 k) (fieldsOf w).x (fieldsOf w).y (fieldsOf w).n = w := by
  rw [← h, BitVec.ofNat_toNat, BitVec.setWidth_eq, wordXYN_fieldsOf]

end

/-- R87: a class-0x0 word selects a row when its twelve bits are the row's, or, under `LOW_BYTE`, when
they are once bits 11 to 8 are cleared. -/
theorem class0Selects_word {m : Class0Match} {key : Byte} {w : Word} (hcls : (fieldsOf w).cls.toNat = 0)
    (h : class0Selects m key (fieldsOf w).nnn = true) :
    wordXNN 0x0#4 0x0#4 key = w ∨ (m = .lowByte ∧ wordXNN 0x0#4 0x0#4 key = w &&& 0xF0FF#16) := by
  cases m with
  | lowByte =>
    have hkey : (fieldsOf w).nn = key := by
      simpa only [class0Selects, beq_iff_eq, fieldsOf_nnn_low] using h
    have hzero : (fieldsOf w).cls = 0x0#4 := BitVec.eq_of_toNat_eq hcls
    exact .inr ⟨rfl, by rw [and_class0, hkey, hzero]⟩
  | fullWord =>
    have hnnn : (fieldsOf w).nnn = (0#4 ++ key : BitVec (4 + 8)) := by
      simpa only [class0Selects, beq_iff_eq] using h
    exact .inl (by rw [wordXNN_eq_wordNNN, ← hnnn]; exact wordNNN_of_cls hcls)

theorem decodeClass0_ok {c : Config} {w : Word} {i : Instr} (hcls : (fieldsOf w).cls.toNat = 0)
    (h : decodeClass0 c (fieldsOf w).nnn = .ok i) :
    i.sysDistinct c.class0Match = true ∧ encodesUpToIgnored c w i := by
  simp only [decodeClass0] at h
  split at h
  · rename_i hsel
    cases h
    exact ⟨rfl, (class0Selects_word hcls hsel).imp id fun ⟨hm, he⟩ => .inl ⟨hm, .inl rfl, he⟩⟩
  · rename_i hcl
    split at h
    · rename_i hsel
      cases h
      exact ⟨rfl, (class0Selects_word hcls hsel).imp id fun ⟨hm, he⟩ => .inl ⟨hm, .inr rfl, he⟩⟩
    · rename_i hre
      cases h
      refine ⟨?_, .inl (wordNNN_of_cls hcls)⟩
      simp only [Instr.sysDistinct, hcl, hre, Bool.or_self, Bool.not_false]

theorem decodeClass59_ok {c : Config} {n : Nibble} {i j : Instr} (h : decodeClass59 c n j = .ok i) :
    i = j ∧ (c.class59Match = .ignoreN ∨ n = 0#4) := by
  simp only [decodeClass59] at h
  split at h
  · rename_i hm
    cases h; exact ⟨rfl, .inl hm⟩
  · split at h
    · rename_i hn
      cases h; exact ⟨rfl, .inr hn⟩
    · cases h

/-- R88: a word of class 0x5 or 0x9 is accepted with N = 0, or, under `IGNORE_N`, once bits 3 to 0 are
cleared. -/
theorem class59_word {c : Config} {w : Word} {k : Nat} (hcls : (fieldsOf w).cls.toNat = k)
    (h : c.class59Match = .ignoreN ∨ (fieldsOf w).n = 0#4) :
    wordXYN (BitVec.ofNat 4 k) (fieldsOf w).x (fieldsOf w).y 0x0#4 = w ∨
      (c.class59Match = .ignoreN ∧
        wordXYN (BitVec.ofNat 4 k) (fieldsOf w).x (fieldsOf w).y 0x0#4 = w &&& 0xFFF0#16) := by
  rcases h with hm | hn
  · exact .inr ⟨hm, by rw [and_class59, ← hcls, BitVec.ofNat_toNat, BitVec.setWidth_eq]⟩
  · exact .inl (hn ▸ wordXYN_of_cls hcls)

theorem decodeClass8_ok {x y : Reg} {n : Nibble} {i : Instr} (h : decodeClass8 x y n = .ok i) :
    encode i = wordXYN 0x8#4 x y n ∧ ∀ m, i.sysDistinct m = true := by
  simp only [decodeClass8] at h
  split at h
  case h_10 => cases h
  all_goals
    rename_i hn
    cases h
    exact ⟨congrArg (wordXYN 0x8#4 x y) (BitVec.eq_of_toNat_eq hn.symm), fun _ => rfl⟩

theorem decodeClassE_ok {x : Reg} {nn : Byte} {i : Instr} (h : decodeClassE x nn = .ok i) :
    encode i = wordXNN 0xE#4 x nn ∧ ∀ m, i.sysDistinct m = true := by
  simp only [decodeClassE] at h
  split at h
  case h_3 => cases h
  all_goals
    rename_i hn
    cases h
    exact ⟨congrArg (wordXNN 0xE#4 x) (BitVec.eq_of_toNat_eq hn.symm), fun _ => rfl⟩

theorem decodeClassF_ok {x : Reg} {nn : Byte} {i : Instr} (h : decodeClassF x nn = .ok i) :
    encode i = wordXNN 0xF#4 x nn ∧ ∀ m, i.sysDistinct m = true := by
  simp only [decodeClassF] at h
  split at h
  case h_10 => cases h
  all_goals
    rename_i hn
    cases h
    exact ⟨congrArg (wordXNN 0xF#4 x) (BitVec.eq_of_toNat_eq hn.symm), fun _ => rfl⟩

/-- The dispatch answers an instruction only for a word that is its own up to ignored bits (R85). -/
theorem decodeFull_ok {c : Config} {w : Word} {i : Instr} (h : decodeFull c w = .ok i) :
    i.sysDistinct c.class0Match = true ∧ encodesUpToIgnored c w i := by
  simp only [decodeFull] at h
  split at h
  case h_1 hcls => exact decodeClass0_ok hcls h
  case h_6 hcls =>
    obtain ⟨rfl, hn⟩ := decodeClass59_ok h
    exact ⟨rfl, (class59_word hcls hn).imp id fun ⟨hm, he⟩ => .inr ⟨hm, .inl ⟨_, _, rfl⟩, he⟩⟩
  case h_10 hcls =>
    obtain ⟨rfl, hn⟩ := decodeClass59_ok h
    exact ⟨rfl, (class59_word hcls hn).imp id fun ⟨hm, he⟩ => .inr ⟨hm, .inr ⟨_, _, rfl⟩, he⟩⟩
  case h_9 hcls =>
    obtain ⟨he, hsys⟩ := decodeClass8_ok h
    exact ⟨hsys _, .inl (he.trans (wordXYN_of_cls hcls))⟩
  case h_15 hcls =>
    obtain ⟨he, hsys⟩ := decodeClassE_ok h
    exact ⟨hsys _, .inl (he.trans (wordXNN_of_cls hcls))⟩
  case h_16 hcls =>
    obtain ⟨he, hsys⟩ := decodeClassF_ok h
    have hclsF : (fieldsOf w).cls.toNat = 15 := by
      have := (fieldsOf w).cls.isLt
      simp only [imp_false] at *
      omega
    exact ⟨hsys _, .inl (he.trans (wordXNN_of_cls hclsF))⟩
  case h_2 hcls | h_3 hcls | h_11 hcls | h_12 hcls =>
    cases h; exact ⟨rfl, .inl (wordNNN_of_cls hcls)⟩
  case h_4 hcls | h_5 hcls | h_7 hcls | h_8 hcls | h_13 hcls =>
    cases h; exact ⟨rfl, .inl (wordXNN_of_cls hcls)⟩
  case h_14 hcls =>
    cases h; exact ⟨rfl, .inl (wordXYN_of_cls hcls)⟩

/-! ### Ignored bits -/

theorem wordXNN_inj {c c' : BitVec 4} {x x' : Reg} {nn nn' : Byte}
    (h : wordXNN c x nn = wordXNN c' x' nn') : c = c' ∧ x = x' ∧ nn = nn' := by
  have := congrArg fieldsOf h
  simp only [fieldsOf_wordXNN, Fields.mk.injEq] at this
  obtain ⟨hc, hx, -, -, hn, -⟩ := this
  exact ⟨hc, hx, hn⟩

theorem wordXYN_inj {c c' : BitVec 4} {x x' y y' : Reg} {n n' : Nibble}
    (h : wordXYN c x y n = wordXYN c' x' y' n') : c = c' ∧ x = x' ∧ y = y' ∧ n = n' := by
  have := congrArg fieldsOf h
  simp only [fieldsOf_wordXYN, Fields.mk.injEq] at this
  obtain ⟨hc, hx, hy, hn, -, -⟩ := this
  exact ⟨hc, hx, hy, hn⟩

/-- Under `LOW_BYTE` bits 11 to 8 play no part in selecting CLS or RET (R87). -/
theorem decodeFull_lowByte {c : Config} {w : Word} {key : Byte} (hm : c.class0Match = .lowByte)
    (h : wordXNN 0x0#4 0x0#4 key = w &&& 0xF0FF#16) :
    decodeFull c w = decodeClass0 c (fieldsOf w).nnn ∧
      class0Selects c.class0Match key (fieldsOf w).nnn = true := by
  obtain ⟨hcls, -, hkey⟩ := wordXNN_inj (h.trans (and_class0 w))
  refine ⟨?_, ?_⟩
  · simp only [decodeFull, ← hcls]; rfl
  · simp only [hm, class0Selects, fieldsOf_nnn_low, ← hkey, beq_self_eq_true]

/-- Under `IGNORE_N` bits 3 to 0 play no part in classes 0x5 and 0x9 (R88). -/
theorem decodeFull_of_encodesUpToIgnored {c : Config} {w : Word} {i : Instr}
    (hsys : i.sysDistinct c.class0Match = true) (h : encodesUpToIgnored c w i) :
    decodeFull c w = .ok i := by
  obtain rfl | ⟨hm, rfl | rfl, he⟩ | ⟨hm, ⟨x, y, rfl⟩ | ⟨x, y, rfl⟩, he⟩ := h
  · exact decodeFull_encode hsys
  · obtain ⟨hd, hsel⟩ := decodeFull_lowByte (key := clsByte) hm he
    rw [hd, decodeClass0_cls hsel]
  · obtain ⟨hd, hsel⟩ := decodeFull_lowByte (key := retByte) hm he
    rw [hd, decodeClass0_ret hsel]
  · obtain ⟨hcls, rfl, rfl, -⟩ := wordXYN_inj (he.trans (and_class59 w))
    simp only [decodeFull, ← hcls]
    exact decodeClass59_ignoreN hm _ _
  · obtain ⟨hcls, rfl, rfl, -⟩ := wordXYN_inj (he.trans (and_class59 w))
    simp only [decodeFull, ← hcls]
    exact decodeClass59_ignoreN hm _ _

theorem decodeFull_eq_ok_iff {c : Config} {w : Word} {i : Instr} :
    decodeFull c w = .ok i ↔ i.sysDistinct c.class0Match = true ∧ encodesUpToIgnored c w i :=
  ⟨decodeFull_ok, fun ⟨hsys, he⟩ => decodeFull_of_encodesUpToIgnored hsys he⟩

/-- Settles O3: the dispatch answers `i` for exactly its words, and the profile cuts it down. -/
theorem decodeIsExact : Obligations.DecodeIsExact := by
  intro c w i
  rw [decode_eq_ok_iff, decodeFull_eq_ok_iff, Instr.wellFormed_iff]
  exact ⟨fun ⟨⟨hsys, he⟩, hadm⟩ => ⟨⟨hadm, hsys⟩, he⟩, fun ⟨⟨hadm, hsys⟩, he⟩ => ⟨⟨hsys, he⟩, hadm⟩⟩

/-! ### The rows of the opcode table -/

/-- The word of every instruction matches its row (R86). -/
theorem encode_and_tableRow (i : Instr) : encode i &&& (tableRow i).1 = (tableRow i).2 := by
  cases i with
  | cls => exact Laws.InTableRow.cls
  | ret => exact Laws.InTableRow.ret
  | jp nnn => exact Laws.InTableRow.jp nnn
  | call nnn => exact Laws.InTableRow.call nnn
  | seByte x nn => exact Laws.InTableRow.seByte x nn
  | sneByte x nn => exact Laws.InTableRow.sneByte x nn
  | seReg x y => exact Laws.InTableRow.seReg x y
  | ldByte x nn => exact Laws.InTableRow.ldByte x nn
  | addByte x nn => exact Laws.InTableRow.addByte x nn
  | ldReg x y => exact Laws.InTableRow.ldReg x y
  | orReg x y => exact Laws.InTableRow.orReg x y
  | andReg x y => exact Laws.InTableRow.andReg x y
  | xorReg x y => exact Laws.InTableRow.xorReg x y
  | addReg x y => exact Laws.InTableRow.addReg x y
  | subReg x y => exact Laws.InTableRow.subReg x y
  | shr x y => exact Laws.InTableRow.shr x y
  | subn x y => exact Laws.InTableRow.subn x y
  | shl x y => exact Laws.InTableRow.shl x y
  | sneReg x y => exact Laws.InTableRow.sneReg x y
  | ldI nnn => exact Laws.InTableRow.ldI nnn
  | jpV0 nnn => exact Laws.InTableRow.jpV0 nnn
  | rnd x nn => exact Laws.InTableRow.rnd x nn
  | drw x y n => exact Laws.InTableRow.drw x y n
  | skp x => exact Laws.InTableRow.skp x
  | sknp x => exact Laws.InTableRow.sknp x
  | ldVxDt x => exact Laws.InTableRow.ldVxDt x
  | ldVxK x => exact Laws.InTableRow.ldVxK x
  | ldDtVx x => exact Laws.InTableRow.ldDtVx x
  | ldStVx x => exact Laws.InTableRow.ldStVx x
  | addI x => exact Laws.InTableRow.addI x
  | ldF x => exact Laws.InTableRow.ldF x
  | ldB x => exact Laws.InTableRow.ldB x
  | storeRegs x => exact Laws.InTableRow.storeRegs x
  | loadRegs x => exact Laws.InTableRow.loadRegs x
  | sys nnn => exact Laws.InTableRow.sys nnn

/-- A mask that a row's own mask lies inside plays no part in matching the row. -/
theorem and_tableRow_of_and {w mask : Word} {i : Instr} (h : encode i = w &&& mask)
    (hmask : mask &&& (tableRow i).1 = (tableRow i).1) : w &&& (tableRow i).1 = (tableRow i).2 := by
  rw [← encode_and_tableRow i, h, BitVec.and_assoc, hmask]

/-- The ignored bits lie outside the masks of their rows (R86 to R88). -/
theorem and_tableRow_of_encodesUpToIgnored {c : Config} {w : Word} {i : Instr}
    (h : encodesUpToIgnored c w i) : w &&& (tableRow i).1 = (tableRow i).2 := by
  obtain rfl | ⟨-, rfl | rfl, he⟩ | ⟨-, ⟨x, y, rfl⟩ | ⟨x, y, rfl⟩, he⟩ := h
  · exact encode_and_tableRow i
  · exact and_tableRow_of_and he BitVec.and_self
  · exact and_tableRow_of_and he BitVec.and_self
  · exact and_tableRow_of_and he (by decide : 0xFFF0#16 &&& 0xF000#16 = 0xF000#16)
  · exact and_tableRow_of_and he (by decide : 0xFFF0#16 &&& 0xF000#16 = 0xF000#16)

/-- A run of bits that a mask keeps whole is read off the masked word. -/
theorem extractLsb'_eq_of_and {w mask m : Word} {start len : Nat} (h : w &&& mask = m)
    (hmask : mask.extractLsb' start len = BitVec.allOnes len) :
    w.extractLsb' start len = m.extractLsb' start len := by
  rw [← h, BitVec.extractLsb'_and, hmask, BitVec.and_allOnes]

theorem n_of_and {w m : Word} (h : w &&& 0xF00F#16 = m) : (fieldsOf w).n = m.extractLsb' 0 4 :=
  extractLsb'_eq_of_and h (by decide)

theorem nn_of_and {w m : Word} (h : w &&& 0xF0FF#16 = m) : (fieldsOf w).nn = m.extractLsb' 0 8 :=
  extractLsb'_eq_of_and h (by decide)

/-- Every row's mask keeps the class. -/
theorem tableRow_mask_class (i : Instr) : (tableRow i).1.extractLsb' 12 4 = BitVec.allOnes 4 := by
  cases i <;> simp only [tableRow, BitVec.reduceExtractLsb'] <;> rfl

/-- A word that matches a row other than SYS's is dispatched to an instruction of that row. -/
theorem decodeFull_of_tableRow {w : Word} {i : Instr} (h : w &&& (tableRow i).1 = (tableRow i).2)
    (hsys : ∀ nnn, i ≠ .sys nnn) :
    ∃ j, decodeFull Config.defaults w = .ok j ∧ tableRow j = tableRow i := by
  have hcls : (fieldsOf w).cls = (tableRow i).2.extractLsb' 12 4 :=
    extractLsb'_eq_of_and h (tableRow_mask_class i)
  cases i with
  | sys nnn => exact absurd rfl (hsys nnn)
  | jp _ | call _ | seByte _ _ | sneByte _ _ | seReg _ _ | ldByte _ _ | addByte _ _ | sneReg _ _
  | ldI _ | jpV0 _ | rnd _ _ | drw _ _ _ =>
    simp only [tableRow, BitVec.reduceExtractLsb'] at hcls
    simp only [decodeFull, hcls]
    exact ⟨_, rfl, rfl⟩
  | ldReg _ _ | orReg _ _ | andReg _ _ | xorReg _ _ | addReg _ _ | subReg _ _ | shr _ _ | subn _ _
  | shl _ _ =>
    have hn := n_of_and h
    simp only [tableRow, BitVec.reduceExtractLsb'] at hcls hn
    simp only [decodeFull, decodeClass8, hcls, hn]
    exact ⟨_, rfl, rfl⟩
  | skp _ | sknp _ | ldVxDt _ | ldVxK _ | ldDtVx _ | ldStVx _ | addI _ | ldF _ | ldB _ | storeRegs _
  | loadRegs _ =>
    have hnn := nn_of_and h
    simp only [tableRow, BitVec.reduceExtractLsb'] at hcls hnn
    simp only [decodeFull, decodeClassE, decodeClassF, hcls, hnn]
    exact ⟨_, rfl, rfl⟩
  | cls | ret =>
    have hnn := nn_of_and h
    simp only [tableRow, BitVec.reduceExtractLsb'] at hcls hnn
    simp only [decodeFull, hcls, decodeClass0, Config.defaults, class0Selects, fieldsOf_nnn_low, hnn]
    exact ⟨_, rfl, rfl⟩
/-- Settles O4: a word is its instruction's up to bits outside the row's mask, and the fields under the
mask are all the dispatch reads. -/
theorem decoderFollowsTable : Obligations.DecoderFollowsTable := by
  refine ⟨fun w i h => ?matchesRow, fun w i h hsys => ?isRead⟩
  case matchesRow => exact and_tableRow_of_encodesUpToIgnored (decodeFull_ok (decode_ok h).1).2
  case isRead =>
    obtain ⟨j, hj, hrow⟩ := decodeFull_of_tableRow h hsys
    exact ⟨j, decode_eq_ok_iff.mpr ⟨hj, rfl⟩, hrow⟩

/-! ### The profile REFERENCE6 -/

/-- A word is known when it is decoded to an instruction that is not SYS (R89, R130). -/
theorem isUnknown_eq_false_iff {c : Config} {w : Word} :
    isUnknown c w = false ↔ ∃ i, decode c w = .ok i ∧ ∀ nnn, i ≠ .sys nnn := by
  unfold isUnknown
  cases decode c w with
  | error e => simp
  | ok i => cases i <;> simp

/-- Every instruction is in the profile FULL (R8). -/
theorem decode_full_eq_ok_iff {c : Config} {w : Word} {i : Instr} :
    decode { c with opset := .full } w = .ok i ↔ decodeFull c w = .ok i :=
  decode_eq_ok_iff.trans (and_iff_left rfl)

theorem decode_reference6_eq_ok_iff {c : Config} {w : Word} {i : Instr} :
    decode { c with opset := .reference6 } w = .ok i ↔
      decodeFull c w = .ok i ∧ OpSet.reference6.admits i = true :=
  decode_eq_ok_iff

/-- The instructions of REFERENCE6 that are no SYS (R90). -/
theorem reference6_admits_iff (i : Instr) :
    (OpSet.reference6.admits i = true ∧ ∀ nnn, i ≠ .sys nnn) ↔
      i = .cls ∨ (∃ nnn, i = .jp nnn) ∨ (∃ x nn, i = .ldByte x nn) ∨
        (∃ x nn, i = .addByte x nn) ∨ (∃ nnn, i = .ldI nnn) ∨ (∃ x y n, i = .drw x y n) := by
  cases i <;> simp [OpSet.admits]

/-- Settles O5: both profiles share the dispatch, and REFERENCE6 then keeps six instructions. -/
theorem referenceSixKeepsSix : Obligations.ReferenceSixKeepsSix := by
  intro c w
  simp only [isUnknown_eq_false_iff, decode_full_eq_ok_iff, ← reference6_admits_iff]
  refine ⟨?known, ?same⟩
  case known => simp only [decode_reference6_eq_ok_iff, and_assoc]
  case same =>
    rintro ⟨i, hi, -⟩
    exact hi.trans (decode_full_eq_ok_iff.mpr (decode_reference6_eq_ok_iff.mp hi).1).symm

/-- Settles O6, word by word. -/
theorem sampleWordsDecode : Obligations.SampleWordsDecode := by
  unfold Obligations.SampleWordsDecode
  decide

end Sys2Proof
end

section
/-!
PROOFS. What every instruction touches and leaves unchanged (40_cycle.md R122, 10_state.md R23, R26, R36,
20_memory.md R54), and which faults it can raise (60_exceptions.md R270, R275).
-/

namespace Sys2Proof.Machine

/-! ### A write to memory leaves every other byte, canonical form or not (R64) -/

theorem Memory.read_write_ne {a x : Nat} (m : Memory) (b : Byte) (h : x ≠ a) :
    (m.write a b).read x = m.read x := by
  induction m with
  | nil => by_cases hb : b = Memory.unlisted <;> simp [Memory.write, Memory.read, hb, h]
  | cons cell m ih =>
    obtain ⟨k, c⟩ := cell
    simp only [Memory.write]
    split
    · split
      · rfl
      · simp only [Memory.read, if_neg h]
    · split
      · rename_i hk
        subst hk
        split <;> simp only [Memory.read, if_neg h]
      · simp only [Memory.read, ih]

theorem Memory.read_writeAll_outside {a x : Nat} (m : Memory) (bs : List Byte)
    (h : x ∉ List.range' a bs.length) : (m.writeAll a bs).read x = m.read x := by
  induction bs generalizing m a with
  | nil => rfl
  | cons b bs ih =>
    rw [List.length_cons, List.range'_succ, List.mem_cons, not_or] at h
    obtain ⟨hne, hout⟩ := h
    rw [Memory.writeAll, ih _ hout, Memory.read_write_ne m b hne]

/-! ### What each update of the state touches -/

section
variable {w : Touched} {s t u : State}

theorem TouchesOnly.refl (w : Touched) (s : State) : TouchesOnly w s s where
  regs _ _ := rfl
  mem _ _ := rfl
  index _ := rfl
  pc _ := rfl
  stack _ := rfl
  dt _ := rfl
  st _ := rfl
  cells _ := rfl
  dirty _ := rfl
  diags _ := rfl
  cfg := rfl
  loaded := rfl
  endMarker := rfl
  fault := rfl
  envDraws := rfl
  drawCount := rfl

theorem TouchesOnly.trans (h : TouchesOnly w s t) (h' : TouchesOnly w t u) : TouchesOnly w s u where
  regs r hr := (h'.regs r hr).trans (h.regs r hr)
  mem a ha := (h'.mem a ha).trans (h.mem a ha)
  index hw := (h'.index hw).trans (h.index hw)
  pc hw := (h'.pc hw).trans (h.pc hw)
  stack hw := (h'.stack hw).trans (h.stack hw)
  dt hw := (h'.dt hw).trans (h.dt hw)
  st hw := (h'.st hw).trans (h.st hw)
  cells hw := (h'.cells hw).trans (h.cells hw)
  dirty hw := (h'.dirty hw).trans (h.dirty hw)
  diags hw := (h'.diags hw).trans (h.diags hw)
  cfg := h'.cfg.trans h.cfg
  loaded := h'.loaded.trans h.loaded
  endMarker := h'.endMarker.trans h.endMarker
  fault := h'.fault.trans h.fault
  envDraws := h'.envDraws.trans h.envDraws
  drawCount := h'.drawCount.trans h.drawCount

theorem TouchesOnly.setV (h : TouchesOnly w s t) {x : Reg} (hx : x ∈ w.regs) (b : Byte) :
    TouchesOnly w s (t.setV x b) :=
  h.trans { TouchesOnly.refl w t with
    regs := fun _ hr => State.getV_setV_ne t b fun e => hr (e ▸ hx) }

theorem TouchesOnly.setMem (h : TouchesOnly w s t) {m : Memory}
    (hm : ∀ a, a ∉ w.addrs → m.read a = t.mem.read a) : TouchesOnly w s (t.setMem m) :=
  h.trans { TouchesOnly.refl w t with mem := hm }

theorem TouchesOnly.setI (h : TouchesOnly w s t) (hw : w.index = true) (i : Word) :
    TouchesOnly w s (t.setI i) :=
  h.trans { TouchesOnly.refl w t with index := fun hf => nomatch hw.symm.trans hf }

theorem TouchesOnly.setPc (h : TouchesOnly w s t) (hw : w.pc = true) (p : Word) :
    TouchesOnly w s (t.setPc p) :=
  h.trans { TouchesOnly.refl w t with pc := fun hf => nomatch hw.symm.trans hf }

theorem TouchesOnly.setStack (h : TouchesOnly w s t) (hw : w.stack = true) (l : List Word) :
    TouchesOnly w s (t.setStack l) :=
  h.trans { TouchesOnly.refl w t with stack := fun hf => nomatch hw.symm.trans hf }

theorem TouchesOnly.setDt (h : TouchesOnly w s t) (hw : w.dt = true) (b : Byte) :
    TouchesOnly w s (t.setDt b) :=
  h.trans { TouchesOnly.refl w t with dt := fun hf => nomatch hw.symm.trans hf }

theorem TouchesOnly.setSt (h : TouchesOnly w s t) (hw : w.st = true) (b : Byte) :
    TouchesOnly w s (t.setSt b) :=
  h.trans { TouchesOnly.refl w t with st := fun hf => nomatch hw.symm.trans hf }

theorem TouchesOnly.setDisp (h : TouchesOnly w s t) (hw : w.cells = true) (g : Grid) :
    TouchesOnly w s (t.setDisp g) :=
  h.trans { TouchesOnly.refl w t with cells := fun hf => nomatch hw.symm.trans hf }

theorem TouchesOnly.setDirty (h : TouchesOnly w s t) (hw : w.dirty = true) (b : Bool) :
    TouchesOnly w s (t.setDirty b) :=
  h.trans { TouchesOnly.refl w t with dirty := fun hf => nomatch hw.symm.trans hf }

theorem TouchesOnly.emitDiag (h : TouchesOnly w s t) (hw : w.diags = true) (d : Diag) :
    TouchesOnly w s (t.emitDiag d) :=
  h.trans { TouchesOnly.refl w t with diags := fun hf => nomatch hw.symm.trans hf }

theorem TouchesOnly.skipWhen (h : TouchesOnly w s t) (hw : w.pc = true) (c : Bool) :
    TouchesOnly w s (t.skipWhen c) := by
  cases c with
  | true => exact h.setPc hw _
  | false => exact h

theorem TouchesOnly.advanceI (h : TouchesOnly w s t) (hw : w.index = true) (x : Reg) :
    TouchesOnly w s (t.advanceI x) := by
  unfold State.advanceI
  split
  · exact h.setI hw _
  · exact h

theorem TouchesOnly.setResultFlag (h : TouchesOnly w s t) {x : Reg} (hx : x ∈ w.regs)
    (hf : vf ∈ w.regs) (b : Byte) (f : Bool) : TouchesOnly w s (t.setResultFlag x b f) :=
  (h.setV hx b).setV hf (flagByte f)

theorem TouchesOnly.setLogic (h : TouchesOnly w s t) {x : Reg} (hx : x ∈ w.regs)
    (hf : vf ∈ w.regs) (b : Byte) : TouchesOnly w s (t.setLogic x b) := by
  unfold State.setLogic
  split
  · exact (h.setV hx b).setV hf _
  · exact h.setV hx b

theorem TouchesOnly.writeAll (h : TouchesOnly w s t) {a : Nat} {bs : List Byte}
    (ha : List.range' a bs.length ⊆ w.addrs) : TouchesOnly w s (t.setMem (t.mem.writeAll a bs)) :=
  h.setMem fun _ hx => Memory.read_writeAll_outside t.mem bs fun hin => hx (ha hin)

end

/-! ### The instructions that can fault: when they complete and when they do not -/

section
variable {s t : State} {x : Reg} {nnn : Addr12}

theorem exec_call_of_room (h : s.stack.length < s.cfg.stackDepth) :
    exec (.call nnn) s = .next ((s.setStack (s.stack ++ [s.pc])).setPc (zext12 nnn)) := by
  rw [exec, execCall, State.push_ok s s.pc h]

theorem exec_call_of_full (h : s.cfg.stackDepth ≤ s.stack.length) :
    exec (.call nnn) s = .fault (.stackOverflow s.pc0) := by
  rw [exec, execCall, State.push_error s s.pc h]; rfl

theorem exec_call_next (h : exec (.call nnn) s = .next t) :
    s.stack.length < s.cfg.stackDepth ∧ t = (s.setStack (s.stack ++ [s.pc])).setPc (zext12 nnn) := by
  rcases Nat.lt_or_ge s.stack.length s.cfg.stackDepth with hl | hl
  · rw [exec_call_of_room hl] at h; cases h; exact ⟨hl, rfl⟩
  · rw [exec_call_of_full hl] at h; cases h

theorem exec_ret_of_append {l : List Word} {w : Word} (h : s.stack = l ++ [w]) :
    exec .ret s = .next ((s.setStack l).setPc w) := by
  rw [exec, execRet, State.pop_ok s h]

theorem exec_ret_of_nil (h : s.stack = []) : exec .ret s = .fault (.stackUnderflow s.pc0) := by
  rw [exec, execRet, State.pop_error s h]; rfl

theorem exec_ret_next (h : exec .ret s = .next t) :
    ∃ l w, s.stack = l ++ [w] ∧ t = (s.setStack l).setPc w := by
  rcases State.pop_cases s with ⟨l, w, hl, -⟩ | ⟨hl, -⟩
  · rw [exec_ret_of_append hl] at h; cases h; exact ⟨l, w, hl, rfl⟩
  · rw [exec_ret_of_nil hl] at h; cases h

theorem exec_ldB_of_lt (h : s.i.toNat + 2 < s.cfg.memSize) :
    exec (.ldB x) s = .next (s.setMem (s.mem.writeAll s.i.toNat (bcdDigits (s.getV x)))) := by
  rw [exec, execLdB, State.storeBytes_ok s (.inr h)]; rfl

theorem exec_ldB_of_le (h : s.cfg.memSize ≤ s.i.toNat + 2) :
    exec (.ldB x) s = .fault (.memWriteOob s.pc0 (max s.i.toNat s.cfg.memSize)) := by
  rw [exec, execLdB, State.storeBytes_error s (a := s.indexAddr 0) (bs := bcdDigits _) (List.cons_ne_nil _ _)
    (Nat.lt_succ_of_le h)]; rfl

theorem exec_ldB_next (h : exec (.ldB x) s = .next t) :
    s.i.toNat + 2 < s.cfg.memSize ∧ t = s.setMem (s.mem.writeAll s.i.toNat (bcdDigits (s.getV x))) := by
  rcases Nat.lt_or_ge (s.i.toNat + 2) s.cfg.memSize with hm | hm
  · rw [exec_ldB_of_lt hm] at h; cases h; exact ⟨hm, rfl⟩
  · rw [exec_ldB_of_le hm] at h; cases h

theorem exec_storeRegs_of_lt (h : s.i.toNat + x.toNat < s.cfg.memSize) :
    exec (.storeRegs x) s =
      .next ((s.setMem (s.mem.writeAll s.i.toNat (s.blockV x))).advanceI x) := by
  rw [exec, execStoreRegs, State.storeBytes_ok s (.inr ((s.length_blockV x).symm ▸ h))]; rfl

theorem exec_storeRegs_of_le (h : s.cfg.memSize ≤ s.i.toNat + x.toNat) :
    exec (.storeRegs x) s = .fault (.memWriteOob s.pc0 (max s.i.toNat s.cfg.memSize)) := by
  have hlen := s.length_blockV x
  have hne : s.blockV x ≠ [] := List.ne_nil_of_length_pos (by omega)
  rw [exec, execStoreRegs, State.storeBytes_error s hne (by simp only [State.indexAddr]; omega)]; rfl

theorem exec_storeRegs_next (h : exec (.storeRegs x) s = .next t) :
    s.i.toNat + x.toNat < s.cfg.memSize ∧
      t = (s.setMem (s.mem.writeAll s.i.toNat (s.blockV x))).advanceI x := by
  rcases Nat.lt_or_ge (s.i.toNat + x.toNat) s.cfg.memSize with hm | hm
  · rw [exec_storeRegs_of_lt hm] at h; cases h; exact ⟨hm, rfl⟩
  · rw [exec_storeRegs_of_le hm] at h; cases h

/-- LD Vx, [I] replaces the registers up to Vx by the bytes at I, I + 1, ... (R207). -/
theorem exec_loadRegs_of_lt (h : s.i.toNat + x.toNat < s.cfg.memSize) :
    ∃ v, exec (.loadRegs x) s = .next (({ s with v := v } : State).advanceI x) ∧
      ∀ r, ({ s with v := v } : State).getV r =
        if r ≤ x then s.mem.read (s.i.toNat + r.toNat) else s.getV r := by
  have hx := x.isLt
  obtain ⟨v, hv, hget⟩ := State.loadV_ok (s.indexAddr 0) (n := x.toNat + 1) (k := 0) (s := s)
    (by omega) (.inr (by simp only [State.indexAddr]; omega))
  refine ⟨v, by rw [exec, execLoadRegs, hv], fun r => (hget r).trans ?_⟩
  simp only [State.indexAddr, Nat.zero_le, true_and, Nat.zero_add, Nat.add_zero, BitVec.le_def,
    Nat.lt_succ_iff]

theorem exec_loadRegs_of_le (h : s.cfg.memSize ≤ s.i.toNat + x.toNat) :
    exec (.loadRegs x) s = .fault (.memReadOob s.pc0 (max s.i.toNat s.cfg.memSize)) := by
  rw [exec, execLoadRegs, State.loadV_error (s.indexAddr 0) (Nat.succ_pos _)
    (by simp only [State.indexAddr]; omega)]; rfl

theorem exec_loadRegs_next (h : exec (.loadRegs x) s = .next t) :
    ∃ v, t = ({ s with v := v } : State).advanceI x ∧
      ∀ r, ({ s with v := v } : State).getV r =
        if r ≤ x then s.mem.read (s.i.toNat + r.toNat) else s.getV r := by
  rcases Nat.lt_or_ge (s.i.toNat + x.toNat) s.cfg.memSize with hm | hm
  · obtain ⟨v, he, hget⟩ := exec_loadRegs_of_lt hm
    rw [he] at h; cases h; exact ⟨v, rfl, hget⟩
  · rw [exec_loadRegs_of_le hm] at h; cases h

/-- DRW that does not complete is MEM_READ_OOB at an address out of range (R226). -/
theorem exec_drw_fault {y : Reg} {n : Nibble} {f : Fault} (h : exec (.drw x y n) s = .fault f) :
    ∃ a, f = .memReadOob s.pc0 a ∧ s.cfg.memSize ≤ a := by
  simp only [exec, execDrw] at h
  split at h
  · cases h
  · rename_i g hg
    cases h; exact State.drawRows_fault hg

end

/-! ### What an instruction touches -/

/-- The pieces of state the rule of an instruction writes (41_control.md to 46_timers_input.md). -/
def touched (s : State) : Instr → Touched
  | .cls => { cells := true, dirty := true }
  | .drw _ _ _ => { regs := [vf], cells := true, dirty := true }
  | .ret | .call _ => { pc := true, stack := true }
  | .jp _ | .jpV0 _ | .seByte _ _ | .sneByte _ _ | .seReg _ _ | .sneReg _ _ | .skp _ | .sknp _ =>
    { pc := true }
  | .ldVxK x => { regs := [x], pc := true }
  | .ldByte x _ | .addByte x _ | .ldReg x _ | .rnd x _ | .ldVxDt x => { regs := [x] }
  | .orReg x _ | .andReg x _ | .xorReg x _ | .addReg x _ | .subReg x _ | .shr x _ | .subn x _
  | .shl x _ => { regs := [x, vf] }
  | .ldI _ | .addI _ | .ldF _ => { index := true }
  | .ldDtVx _ => { dt := true }
  | .ldStVx _ => { st := true }
  | .ldB _ => { addrs := [s.i.toNat, s.i.toNat + 1, s.i.toNat + 2] }
  | .storeRegs x => { addrs := List.range' s.i.toNat (x.toNat + 1), index := true }
  | .loadRegs x => { regs := (List.range (x.toNat + 1)).map (BitVec.ofNat 4), index := true }
  | .sys _ => { diags := true }

/-- The registers LD Vx, [I] writes are V0 to Vx. -/
theorem mem_loadRegs_regs {x r : Reg} (h : r ≤ x) :
    r ∈ (List.range (x.toNat + 1)).map (BitVec.ofNat 4) :=
  List.mem_map.mpr ⟨r.toNat, List.mem_range.mpr (Nat.lt_succ_of_le h), 
    (BitVec.ofNat_toNat 4 r).trans (BitVec.setWidth_eq r)⟩

/-- An instruction that completes touches what its rule writes and nothing else. -/
theorem exec_touchesOnly {i : Instr} {s t : State} (h : exec i s = .next t) :
    TouchesOnly (touched s i) s t := by
  have hs := TouchesOnly.refl (touched s i) s
  cases i with
  | cls => cases h; exact (hs.setDisp rfl _).setDirty rfl _
  | drw x y n =>
    obtain ⟨c, -, rfl⟩ := exec_drw_next h
    exact ((hs.setDisp rfl _).setDirty rfl _).setV (List.mem_singleton_self _) _
  | ret =>
    obtain ⟨l, w, -, rfl⟩ := exec_ret_next h
    exact (hs.setStack rfl _).setPc rfl _
  | call nnn =>
    obtain ⟨-, rfl⟩ := exec_call_next h
    exact (hs.setStack rfl _).setPc rfl _
  | jp _ | jpV0 _ => cases h; exact hs.setPc rfl _
  | seByte _ _ | sneByte _ _ | seReg _ _ | sneReg _ _ | skp _ | sknp _ =>
    cases h; exact hs.skipWhen rfl _
  | ldVxK x =>
    cases h
    split
    · exact hs.setPc rfl _
    · exact hs.setV (List.mem_singleton_self x) _
  | ldByte x _ | addByte x _ | ldReg x _ | rnd x _ | ldVxDt x =>
    cases h; exact hs.setV (List.mem_singleton_self x) _
  | orReg x _ | andReg x _ | xorReg x _ =>
    cases h; exact hs.setLogic List.mem_cons_self (List.mem_cons_of_mem x List.mem_cons_self) _
  | addReg x _ | subReg x _ | shr x _ | subn x _ | shl x _ =>
    cases h; exact hs.setResultFlag List.mem_cons_self (List.mem_cons_of_mem x List.mem_cons_self) _ _
  | ldI _ | addI _ | ldF _ => cases h; exact hs.setI rfl _
  | ldDtVx _ => cases h; exact hs.setDt rfl _
  | ldStVx _ => cases h; exact hs.setSt rfl _
  | ldB x =>
    obtain ⟨-, rfl⟩ := exec_ldB_next h
    exact hs.writeAll (List.Subset.refl _)
  | storeRegs x =>
    obtain ⟨-, rfl⟩ := exec_storeRegs_next h
    exact (hs.writeAll (by rw [State.length_blockV]; exact List.Subset.refl _)).advanceI rfl x
  | loadRegs x =>
    obtain ⟨v, rfl, hget⟩ := exec_loadRegs_next h
    have hv : TouchesOnly (touched s (.loadRegs x)) s { s with v := v } :=
      { hs with regs := fun r hr => (hget r).trans (if_neg fun hle => hr (mem_loadRegs_regs hle)) }
    exact hv.advanceI rfl x
  | sys _ => cases h; exact hs.emitDiag rfl _

/-! ### The rules over all instructions -/

/-- The classes of instructions the spec's prose names (Safety.lean) are those whose rules write the
piece of state. -/
theorem touched_pc (s : State) (i : Instr) : (touched s i).pc = writesPc i := by
  cases i <;> rfl

theorem touched_stack (s : State) (i : Instr) : (touched s i).stack = usesStack i := by
  cases i <;> rfl

theorem touched_index (s : State) (i : Instr) : (touched s i).index = writesIndex i := by
  cases i <;> rfl

theorem touched_addrs {i : Instr} (s : State) (h : writesMemory i = false) : (touched s i).addrs = [] := by
  cases i with
  | ldB _ | storeRegs _ => cases h
  | _ => rfl

theorem touched_dt {i : Instr} (s : State) (h : ∀ x, i ≠ .ldDtVx x) : (touched s i).dt = false := by
  cases i with
  | ldDtVx x => exact absurd rfl (h x)
  | _ => rfl

theorem touched_st {i : Instr} (s : State) (h : ∀ x, i ≠ .ldStVx x) : (touched s i).st = false := by
  cases i with
  | ldStVx x => exact absurd rfl (h x)
  | _ => rfl

/-- Settles O21: PC is touched by the instructions that write it and by no others. -/
theorem onlyControlWritesPc : Obligations.OnlyControlWritesPc :=
  fun i s _ h hi => (exec_touchesOnly h).pc ((touched_pc s i).trans hi)

/-- Settles O23: each of the three is touched by its own instructions and by no others. -/
theorem onlyTheirOwnWriteMemoryStackIndex : Obligations.OnlyTheirOwnWriteMemoryStackIndex := by
  intro i s t h
  have ht := exec_touchesOnly h
  refine ⟨fun hi a => ht.mem a ?_, fun hi => ht.stack ((touched_stack s i).trans hi),
    fun hi => ht.index ((touched_index s i).trans hi)⟩
  rw [touched_addrs s hi]
  exact List.not_mem_nil

/-- Settles O24: nothing touches the engine's status, and each timer has one instruction. -/
theorem instructionsLeaveEngineStatus : Obligations.InstructionsLeaveEngineStatus := by
  intro i s t h
  have ht := exec_touchesOnly h
  exact ⟨ht.cfg, ht.loaded, ht.endMarker, ht.fault, fun hi => ht.dt (touched_dt s hi),
    fun hi => ht.st (touched_st s hi)⟩

/-! ### Faults and refusals -/

/-- Settles O13: the six instructions that can fault, each by its guard; the others complete. -/
theorem faultCauses : Obligations.FaultCauses := by
  intro i s f h
  cases i with
  | drw x y n =>
    obtain ⟨a, rfl, ha⟩ := exec_drw_fault h
    exact .inl ⟨a, rfl, ha, .inl ⟨x, y, n, rfl⟩⟩
  | loadRegs x =>
    rcases Nat.lt_or_ge (s.i.toNat + x.toNat) s.cfg.memSize with hm | hm
    · obtain ⟨v, he, -⟩ := exec_loadRegs_of_lt hm
      rw [he] at h; cases h
    · rw [exec_loadRegs_of_le hm] at h; cases h
      exact .inl ⟨_, rfl, Nat.le_max_right _ _, .inr ⟨x, rfl⟩⟩
  | ldB x =>
    rcases Nat.lt_or_ge (s.i.toNat + 2) s.cfg.memSize with hm | hm
    · rw [exec_ldB_of_lt hm] at h; cases h
    · rw [exec_ldB_of_le hm] at h; cases h
      exact .inr (.inl ⟨_, rfl, Nat.le_max_right _ _, .inl ⟨x, rfl⟩⟩)
  | storeRegs x =>
    rcases Nat.lt_or_ge (s.i.toNat + x.toNat) s.cfg.memSize with hm | hm
    · rw [exec_storeRegs_of_lt hm] at h; cases h
    · rw [exec_storeRegs_of_le hm] at h; cases h
      exact .inr (.inl ⟨_, rfl, Nat.le_max_right _ _, .inr ⟨x, rfl⟩⟩)
  | call nnn =>
    rcases Nat.lt_or_ge s.stack.length s.cfg.stackDepth with hl | hl
    · rw [exec_call_of_room hl] at h; cases h
    · rw [exec_call_of_full hl] at h; cases h
      exact .inr (.inr (.inl ⟨rfl, hl, nnn, rfl⟩))
  | ret =>
    rcases State.pop_cases s with ⟨l, w, hl, -⟩ | ⟨hl, -⟩
    · rw [exec_ret_of_append hl] at h; cases h
    · rw [exec_ret_of_nil hl] at h; cases h
      exact .inr (.inr (.inr ⟨rfl, hl, rfl⟩))
  | _ => cases h

/-- Every instruction has its meaning: it completes or it faults (R92). -/
theorem exec_ne_refused (i : Instr) (s : State) (r : Refusal) : exec i s ≠ .refused r := by
  intro h
  cases i with
  | drw x y n => simp only [exec, execDrw] at h; split at h <;> cases h
  | ret => simp only [exec, execRet] at h; split at h <;> cases h
  | call nnn => simp only [exec, execCall] at h; split at h <;> cases h
  | ldB x =>
    simp only [exec, execLdB] at h
    cases hs : s.storeBytes (s.indexAddr 0) (bcdDigits (s.getV x)) <;> rw [hs] at h <;> cases h
  | storeRegs x => simp only [exec, execStoreRegs] at h; split at h <;> cases h
  | loadRegs x => simp only [exec, execLoadRegs] at h; split at h <;> cases h
  | _ => cases h

theorem runWord_ne_refused (w : Word) (s : State) (r : Refusal) : runWord w s ≠ .refused r := by
  unfold runWord
  split
  · exact exec_ne_refused _ s r
  · exact nofun

theorem endStep_ne_refused {o : StepOutcome} {r : Refusal} (h : o ≠ .refused r) :
    endStep o ≠ .refused r := by
  cases o with
  | refused q => intro he; cases he; exact h rfl
  | _ => exact nofun

/-- Settles O14: whichever way a Step goes, it is no refusal. -/
theorem nothingIsRefused : Obligations.NothingIsRefused := by
  refine ⟨exec_ne_refused, fun s r => ?_⟩
  rcases step_cases s with ⟨f, -, he⟩ | ⟨-, -, he⟩ | ⟨-, -, -, he⟩ | ⟨-, he⟩
  · rw [he]; exact nofun
  · rw [he]; exact nofun
  · rw [he]; exact nofun
  · rw [he]; exact endStep_ne_refused (runWord_ne_refused _ _ r)

end Sys2Proof.Machine
end

section
/-!
PROOFS. The invariant of the engine (70_reset_and_hazards.md R300, 10_state.md R25, R29, R32, 20_memory.md
R50): it holds at reset, and every instruction, Step and host operation keeps it.
-/

namespace Sys2Proof.Machine

section
variable {s t : State}

/-! ### What the invariant speaks of -/

/-- The invariant reads five fields, and holds of any state that shares them. -/
theorem State.Inv.of_eq (hi : s.Inv) (hcfg : t.cfg = s.cfg) (hmem : t.mem = s.mem)
    (hdisp : t.disp = s.disp) (hstack : t.stack = s.stack) (hend : t.endMarker = s.endMarker) : t.Inv where
  cfgValid := by rw [hcfg]; exact hi.cfgValid
  memWf := by rw [hmem]; exact hi.memWf
  memFits := by rw [hcfg, hmem]; exact hi.memFits
  dispSize := by rw [hcfg, hdisp]; exact hi.dispSize
  stackBound := by rw [hcfg, hstack]; exact hi.stackBound
  endLow := by rw [hcfg, hend]; exact hi.endLow
  endHigh := by rw [hcfg, hend]; exact hi.endHigh

/-- An instruction that does not write memory leaves its list of cells as it is. -/
theorem exec_next_mem {i : Instr} (h : exec i s = .next t) (hi : writesMemory i = false) :
    t.mem = s.mem := by
  cases i with
  | ldB _ | storeRegs _ => cases hi
  | drw x y n => obtain ⟨c, -, rfl⟩ := exec_drw_next h; rfl
  | ret => obtain ⟨l, w, -, rfl⟩ := exec_ret_next h; rfl
  | call nnn => obtain ⟨-, rfl⟩ := exec_call_next h; rfl
  | loadRegs x => obtain ⟨v, rfl, -⟩ := exec_loadRegs_next h; rw [State.advanceI_eq]
  | orReg _ _ | andReg _ _ | xorReg _ _ => cases h; rw [State.setLogic_eq]
  | seByte _ _ | sneByte _ _ | seReg _ _ | sneReg _ _ | skp _ | sknp _ => cases h; rw [State.skipWhen_eq]
  | ldVxK x => cases h; split <;> rfl
  | _ => cases h; rfl

/-! ### Every instruction keeps the invariant -/

theorem State.Inv.exec {i : Instr} (hi : s.Inv) (h : exec i s = .next t) : t.Inv := by
  have ht := exec_touchesOnly h
  cases i with
  | cls => cases h; exact { hi with dispSize := Grid.hasSize_blank _ _ }
  | drw x y n =>
    obtain ⟨c, hc, rfl⟩ := exec_drw_next h
    exact { hi with dispSize := (State.drawSprite_spec hi.dispSize hc).1 }
  | call nnn =>
    obtain ⟨hroom, rfl⟩ := exec_call_next h
    exact { hi with stackBound := by simpa using hroom }
  | ret =>
    obtain ⟨l, w, hl, rfl⟩ := exec_ret_next h
    have hbound := hi.stackBound
    rw [hl, List.length_append] at hbound
    exact { hi with stackBound := Nat.le_trans (Nat.le_add_right _ _) hbound }
  | ldB x =>
    obtain ⟨hm, rfl⟩ := exec_ldB_next h
    exact hi.setMem_writeAll hm
  | storeRegs x =>
    obtain ⟨hm, rfl⟩ := exec_storeRegs_next h
    rw [State.advanceI_eq]
    exact (hi.setMem_writeAll ((s.length_blockV x).symm ▸ hm)).of_eq rfl rfl rfl rfl rfl
  | _ => exact hi.of_eq ht.cfg (exec_next_mem h rfl) (ht.cells rfl) (ht.stack rfl) ht.endMarker

theorem State.Inv.unknownOpcode (hi : s.Inv) (w : Word) : (s.unknownOpcode w).Inv :=
  hi.of_eq rfl rfl rfl rfl rfl

theorem State.Inv.runWord {w : Word} (hi : s.Inv) (h : runWord w s = .next t) : t.Inv := by
  simp only [Machine.runWord] at h
  split at h
  · exact hi.exec h
  · cases h; exact hi.unknownOpcode w

theorem State.Inv.advancePc (hi : s.Inv) : s.advancePc.Inv := hi.of_eq rfl rfl rfl rfl rfl

theorem State.Inv.takeDraws (hi : s.Inv) : s.takeDraws.Inv := hi.of_eq rfl rfl rfl rfl rfl

theorem State.Inv.supplyDraws (hi : s.Inv) (d : Draws) : (s.supplyDraws d).Inv :=
  hi.of_eq rfl rfl rfl rfl rfl

/-! ### Every Step and every host operation keeps it -/

theorem State.Inv.step (hi : s.Inv) (h : step s = .next t) : t.Inv := by
  rcases step_cases s with ⟨f, -, he⟩ | ⟨-, -, he⟩ | ⟨-, -, -, he⟩ | ⟨-, he⟩
  · rw [he] at h; cases h
  · rw [he] at h; cases h; exact hi
  · rw [he] at h; cases h
  · rw [he] at h
    obtain ⟨u, hu, rfl⟩ := endStep_next h
    exact (hi.advancePc.runWord hu).takeDraws

theorem State.Inv.stepWith (hi : s.Inv) (d : Draws) : (s.stepWith d).1.Inv := by
  unfold State.stepWith
  split
  · exact hi
  · split
    · exact hi
    · split
      · rename_i t ht; exact (hi.supplyDraws d).step ht
      · exact (hi.supplyDraws d).takeDraws.recordFatal _
      · exact hi

/-- A Load that fits keeps the invariant: the image ends inside memory (R305). -/
theorem State.Inv.load {im : Image} (hi : s.Inv) (h : s.load im = .ok t) : t.Inv := by
  obtain ⟨l, -, hfit, rfl⟩ := State.load_ok h
  have hm := hi.setMem_writeAll hfit
  exact { hm with
    endLow := by dsimp only; omega
    endHigh := by dsimp only; omega }

theorem State.Inv.transact (hi : s.Inv) (op : HostOp) : (transact op s).1.Inv := by
  cases op with
  | load im =>
    simp only [Machine.transact]
    split
    · rename_i t ht; exact hi.load ht
    · exact hi
  | step d => exact hi.stepWith d
  | shouldRedraw | snapshot => exact hi
  | tick | acknowledgeRedraw => exact hi.of_eq rfl rfl rfl rfl rfl

theorem State.Inv.runOps (hi : s.Inv) (ops : List HostOp) : (runOps ops s).Inv := by
  induction ops generalizing s with
  | nil => exact hi
  | cons op ops ih => exact ih (hi.transact op)

end

/-! ### The statements about Steps and operations -/

/-- Settles O16: of the ways a Step can go, only a word that runs changes the state. -/
theorem stepKeepsInvariant : Obligations.StepKeepsInvariant :=
  fun _ _ hi h => hi.step h

/-- Settles O17, by induction on the operations. -/
theorem operationsKeepInvariant : Obligations.OperationsKeepInvariant :=
  fun ops _ hi => hi.runOps ops

/-! ### Construction -/

theorem Config.valid_iff (c : Config) :
    c.valid = true ↔ 1 ≤ c.memSize ∧ c.memSize ≤ 65536 ∧ c.programStart < c.memSize ∧
      1 ≤ c.dispW ∧ 1 ≤ c.dispH ∧ c.spriteWidth = 8 ∧ 1 ≤ c.stackDepth ∧
      (c.fontPreload = true → c.fontBase + 80 ≤ c.memSize) := by
  simp only [Config.valid, Bool.and_eq_true, decide_eq_true_eq, Bool.or_eq_true, Bool.not_eq_true',
    and_assoc]
  cases c.fontPreload <;> simp

/-- R40's table meets the invariant under every legal configuration. -/
theorem State.Inv.zeroed {c : Config} (h : c.valid = true) : (State.zeroed c).Inv where
  cfgValid := h
  memWf := rfl
  memFits := rfl
  dispSize := Grid.hasSize_blank c.dispH c.dispW
  stackBound := Nat.zero_le _
  endLow := le_refl _
  endHigh := by
    obtain ⟨-, -, hstart, -⟩ := (Config.valid_iff c).mp h
    rw [State.zeroed_endMarker, State.zeroed_cfg]
    omega

/-- Settles O18: reset is R40's table for the default configuration, which is legal. -/
theorem resetHasInvariant : Obligations.ResetHasInvariant := State.Inv.zeroed rfl

/-- The memory Construct builds: nothing but the font, where the configuration asks for it (R40, R52). -/
def constructedMem (c : Config) : Memory :=
  if c.fontPreload then Memory.writeAll [] c.fontBase fontTable else []

theorem State.construct_of_valid {c : Config} (h : c.valid = true) :
    State.construct c = .ok ((State.zeroed c).setMem (constructedMem c)) := by
  rw [State.construct, if_pos h, State.zeroed_mem, constructedMem]
  cases c.fontPreload with
  | true => rw [if_pos rfl, if_pos rfl]
  | false => rfl

theorem State.construct_of_not_valid {c : Config} (h : c.valid = false) :
    State.construct c = .error .illegalConfiguration :=
  if_neg (Bool.eq_false_iff.mp h)

theorem length_fontTable : fontTable.length = 80 := by decide

theorem State.Inv.constructed {c : Config} (h : c.valid = true) :
    ((State.zeroed c).setMem (constructedMem c)).Inv := by
  unfold constructedMem
  split
  · rename_i hfont
    obtain ⟨-, -, -, -, -, -, -, hfit⟩ := (Config.valid_iff c).mp h
    exact (State.Inv.zeroed h).setMem_writeAll (length_fontTable ▸ hfit hfont)
  · exact State.Inv.zeroed h

theorem constructedMem_read_outside {c : Config} {a : Nat}
    (h : c.fontPreload = false ∨ a < c.fontBase ∨ c.fontBase + 80 ≤ a) :
    (constructedMem c).read a = 0#8 := by
  unfold constructedMem
  split
  · rename_i hfont
    have hout : a < c.fontBase ∨ c.fontBase + 80 ≤ a :=
      h.resolve_left fun hoff => nomatch hfont.symm.trans hoff
    rw [← length_fontTable] at hout
    rw [Memory.read_writeAll_out rfl hout]; rfl
  · rfl

theorem constructedMem_read_font {c : Config} (hfont : c.fontPreload = true) {k : Nat} (hk : k < 80) :
    (constructedMem c).read (c.fontBase + k) = fontTable.getD k 0#8 := by
  rw [← length_fontTable] at hk
  rw [constructedMem, if_pos hfont, Memory.read_writeAll_in rfl hk]; rfl

/-- Settles O19: the bounds are the check's; the state is R40's table, whose invariant the font keeps,
and the font's digits are five bytes each in `fontTable`. -/
theorem constructBuildsResetState : Obligations.ConstructBuildsResetState := by
  intro c
  refine ⟨Config.valid_iff c, State.construct_of_not_valid, fun h => ?_⟩
  refine ⟨_, State.construct_of_valid h, State.Inv.constructed h, ?_⟩
  obtain ⟨-, hmax, hstart, -⟩ := (Config.valid_iff c).mp h
  refine ⟨rfl, State.getV_zeroed c, rfl, ?pc, rfl, rfl, rfl, fun _ _ => Grid.get_blank _ _ _ _, rfl, rfl,
    rfl, rfl, fun a ha => constructedMem_read_outside ha, fun hfont d k hd hk => ?font⟩
  case pc => exact Nat.mod_eq_of_lt (by omega)
  case font =>
    rw [State.setMem_mem, Nat.add_assoc, constructedMem_read_font hfont (by omega)]
    clear hfont
    revert k; revert d
    decide

/-- Settles O20: the table of R40 at the defaults. -/
theorem resetValues : Obligations.ResetValues :=
  ⟨rfl, rfl, State.getV_zeroed _, rfl, rfl, rfl, fun _ => rfl, rfl, fun _ _ => Grid.get_blank _ _ _ _,
    rfl, rfl, rfl, rfl⟩

end Sys2Proof.Machine
end

section
/-!
PROOFS. The Step (40_cycle.md): the word at PC and what it runs, unknown opcodes, halting, recorded faults,
the fetch's fault and the program counter along a straight run.
-/

namespace Sys2Proof.Machine

section
variable {s t : State}

/-! ### A Step that fetches -/

theorem step_of_canFetch (h : s.canFetch = true) :
    step s = endStep (runWord s.wordAtPc s.advancePc) := by
  obtain ⟨hfault, hhalt, hmem⟩ := (State.canFetch_iff s).mp h
  rcases step_cases s with ⟨f, hf, -⟩ | ⟨-, hh, -⟩ | ⟨-, -, hm, -⟩ | ⟨-, he⟩
  · exact nomatch hfault.symm.trans hf
  · exact nomatch hhalt.symm.trans hh
  · exact absurd hmem (Nat.not_lt.mpr hm)
  · exact he

theorem step_of_decode {i : Instr} (h : s.canFetch = true) (hd : decode s.cfg s.wordAtPc = .ok i) :
    step s = endStep (exec i s.advancePc) := by
  rw [step_of_canFetch h, runWord, State.advancePc_cfg, hd]

/-! ### Unknown opcodes -/

/-- SYS is decoded from its own word only, which its diagnostic therefore carries (R130). -/
theorem wordNNN_of_decode_sys {c : Config} {w : Word} {nnn : Addr12} (h : decode c w = .ok (.sys nnn)) :
    wordNNN 0x0#4 nnn = w := by
  obtain ⟨-, he | ⟨-, hcls | hret, -⟩ | ⟨-, ⟨x, y, hse⟩ | ⟨x, y, hsne⟩, -⟩⟩ :=
    decodeFull_ok (decode_ok h).1
  · exact he
  · cases hcls
  · cases hret
  · cases hse
  · cases hsne

/-- R118: an unknown opcode, SYS among them, emits its diagnostic and does nothing else. -/
theorem runWord_of_isUnknown {w : Word} (h : isUnknown s.cfg w = true) :
    runWord w s = .next (s.unknownOpcode w) := by
  unfold isUnknown at h
  unfold runWord
  split at h
  · rename_i nnn hd
    rw [hd, ← wordNNN_of_decode_sys hd]; rfl
  · cases h
  · rename_i e hd
    rw [hd]

/-! ### Halting -/

/-- R112: a Step of a halted engine changes nothing and says so. -/
theorem State.stepWith_of_halted (d : Draws) (hfault : s.fault = none) (hhalt : s.halted = true) :
    s.stepWith d = (s, .halted) := by
  simp only [State.stepWith, hfault, hhalt, if_true]

theorem step_of_halted (hfault : s.fault = none) (hhalt : s.halted = true) : step s = .next s := by
  simp only [step, hfault, hhalt, if_true]

/-- The states a halted engine goes through until the next Load: the host's Ticks and acknowledgments
move the timers and the dirty flag (R235, R285). -/
def State.withTimersDirty (s : State) (dt st : Byte) (dirty : Bool) : State :=
  ((s.setDt dt).setSt st).setDirty dirty

theorem transact_of_halted {op : HostOp} (hfault : s.fault = none) (hhalt : s.halted = true)
    (hop : ∀ image, op ≠ .load image) :
    ∃ dt st dirty, (transact op s).1 = s.withTimersDirty dt st dirty := by
  cases op with
  | load image => exact absurd rfl (hop image)
  | step d => exact ⟨s.dt, s.st, s.dirty, by rw [transact, State.stepWith_of_halted d hfault hhalt]; rfl⟩
  | tick => exact ⟨tickTimer s.dt, tickTimer s.st, s.dirty, rfl⟩
  | acknowledgeRedraw => exact ⟨s.dt, s.st, false, rfl⟩
  | shouldRedraw | snapshot => exact ⟨s.dt, s.st, s.dirty, rfl⟩

theorem runOps_of_halted {ops : List HostOp} (hfault : s.fault = none) (hhalt : s.halted = true)
    (hops : ∀ op ∈ ops, ∀ image, op ≠ .load image) :
    ∃ dt st dirty, runOps ops s = s.withTimersDirty dt st dirty := by
  induction ops generalizing s with
  | nil => exact ⟨s.dt, s.st, s.dirty, rfl⟩
  | cons op ops ih =>
    obtain ⟨hop, hrest⟩ := List.forall_mem_cons.mp hops
    obtain ⟨dt, st, dirty, he⟩ := transact_of_halted hfault hhalt hop
    obtain ⟨dt', st', dirty', he'⟩ := ih (s := s.withTimersDirty dt st dirty) hfault hhalt hrest
    exact ⟨dt', st', dirty', by rw [runOps, he, he']; rfl⟩

/-! ### Recorded faults -/

/-- R120: a Step of a faulted engine returns the record and changes nothing. -/
theorem State.stepWith_of_fault {f : Fault} (d : Draws) (h : s.fault = some f) :
    s.stepWith d = (s, .fatal f) := by
  simp only [State.stepWith, h]

theorem step_of_fault {f : Fault} (h : s.fault = some f) : step s = .fault f := by
  simp only [step, h]; rfl

/-- No operation clears or replaces a recorded fault, a Load included (R307). -/
theorem transact_fault {f : Fault} (op : HostOp) (h : s.fault = some f) :
    (transact op s).1.fault = some f := by
  cases op with
  | load im =>
    simp only [transact]
    split
    · rename_i t ht
      obtain ⟨_, -, -, rfl⟩ := State.load_ok ht
      exact h
    · exact h
  | step d => rw [transact, State.stepWith_of_fault d h]; exact h
  | tick | shouldRedraw | snapshot | acknowledgeRedraw => exact h

theorem runOps_fault {f : Fault} (ops : List HostOp) (h : s.fault = some f) :
    (runOps ops s).fault = some f := by
  induction ops generalizing s with
  | nil => exact h
  | cons op ops ih => exact ih (transact_fault op h)

/-- R119: a Step that raises a fault returns it and leaves its record. -/
theorem State.stepWith_of_step_fault {f : Fault} {d : Draws} (hfault : s.fault = none)
    (hhalt : s.halted = false) (h : step (s.supplyDraws d) = .fault f) :
    s.stepWith d = ((s.supplyDraws d).takeDraws.recordFatal f, .fatal f) := by
  simp only [State.stepWith, hfault, hhalt, h, Bool.false_eq_true, if_false]

/-! ### Straight runs -/

/-- R122: a Step that runs no jump, call, return, skip or key wait moves PC on by 2. -/
theorem step_pc_of_runsStraight (h : s.runsStraight = true) (ht : step s = .next t) :
    t.pc = s.pc + 2#16 := by
  simp only [State.runsStraight, Bool.and_eq_true] at h
  obtain ⟨hfetch, hstraight⟩ := h
  rw [step_of_canFetch hfetch] at ht
  obtain ⟨u, hu, rfl⟩ := endStep_next ht
  rw [runWord, State.advancePc_cfg] at hu
  split at hu
  · rename_i i hd
    rw [hd, Bool.not_eq_true'] at hstraight
    exact onlyControlWritesPc i s.advancePc u hu hstraight
  · cases hu; rfl

theorem core_run_succ (n : Nat) (h : step s = .next t) : core.run (n + 1) s = core.run n t := by
  have hstep : core.step s = .next t := h
  simp only [Host.Core.run, hstep]

/-- A run that goes on takes its first Step (R119: a fault would end it). -/
theorem step_next_of_core_run {n : Nat} {u : State} (h : core.run (n + 1) s = .next u) :
    ∃ t, step s = .next t := by
  simp only [Host.Core.run] at h
  split at h
  · rename_i t ht; exact ⟨t, ht⟩
  · cases h
  · cases h

theorem core_run_pc_of_runsStraight {n : Nat}
    (hstraight : ∀ k, k < n → ∃ u, core.run k s = .next u ∧ State.runsStraight u = true)
    (h : core.run n s = .next t) : t.pc = s.pc + BitVec.ofNat 16 (2 * n) := by
  induction n generalizing s with
  | zero => cases h; exact (BitVec.add_zero _).symm
  | succ n ih =>
    obtain ⟨u, hu⟩ := step_next_of_core_run h
    have hpc : u.pc = s.pc + 2#16 := by
      obtain ⟨s', hs', hrun⟩ := hstraight 0 (Nat.succ_pos n)
      cases hs'
      exact step_pc_of_runsStraight hrun hu
    have hrest : t.pc = u.pc + BitVec.ofNat 16 (2 * n) :=
      ih (fun k hk => core_run_succ k hu ▸ hstraight (k + 1) (Nat.succ_lt_succ hk))
        (core_run_succ n hu ▸ h)
    calc t.pc
        = s.pc + 2#16 + BitVec.ofNat 16 (2 * n) := by rw [hrest, hpc]
      _ = s.pc + BitVec.ofNat 16 (2 + 2 * n) := by rw [BitVec.add_assoc, BitVec.ofNat_add]
      _ = s.pc + BitVec.ofNat 16 (2 * (n + 1)) := by rw [Nat.mul_succ, Nat.add_comm]

end

/-! ### The statements about the Step and its runs -/

/-- Settles O7: a Step that fetches runs what the word decodes to. -/
theorem stepRunsDecoded : Obligations.StepRunsDecoded := by
  intro s i h hd
  have he : step s = endStep (exec i (s.setPc (s.pc + 2#16))) := step_of_decode h hd
  exact ⟨he, fun t ht => by rw [he, ht]; rfl, fun f hf => by rw [he, hf]; rfl⟩

/-- Settles O9: the unknown word's no-op, on the state with PC moved on. -/
theorem unknownOpcodeIsNoOp : Obligations.UnknownOpcodeIsNoOp := by
  intro s h hu
  refine ⟨_, ?_, rfl⟩
  rw [step_of_canFetch h, runWord_of_isUnknown (s := s.advancePc) hu, State.unknownOpcode, State.pc0_advancePc]
  rfl

/-- Settles O10: until a Load only the timers and the dirty flag move, and none of them restarts the
engine. -/
theorem haltedUntilLoad : Obligations.HaltedUntilLoad := by
  intro s ops d hfault hhalt hops
  rw [← State.halted_iff] at hhalt
  obtain ⟨dt, st, dirty, he⟩ := runOps_of_halted hfault hhalt hops
  rw [he]
  exact ⟨step_of_halted hfault hhalt, State.stepWith_of_halted d hfault hhalt, rfl, fun _ => rfl⟩

/-- Settles O11: the record is written by the Step that faults, and every later operation keeps it. -/
theorem fatalFaultIsRecordedAndStays : Obligations.FatalFaultIsRecordedAndStays := by
  refine ⟨fun s f d hfault hhalt h => ?raised, fun s f ops d h => ?stays⟩
  case raised =>
    rw [State.stepWith_of_step_fault hfault hhalt h]
    exact ⟨rfl, rfl⟩
  case stays =>
    have hrec := runOps_fault ops h
    exact ⟨hrec, step_of_fault hrec, State.stepWith_of_fault d hrec⟩

/-- Settles O12: not halted, PC is at most the end marker, which lies in memory. -/
theorem fetchFaultsAtLastByte : Obligations.FetchFaultsAtLastByte := by
  intro s hi hfault hhalt
  have hpc : s.pc.toNat + 1 ≤ s.cfg.memSize := by
    have hend := hi.endHigh
    simp only [State.halted, Bool.or_eq_false_iff, decide_eq_false_iff_not] at hhalt
    omega
  refine ⟨fun hlast => ?faults, fun hne => ?fetches⟩
  case faults =>
    have hf : s.fetch = .error (.fetchOob s.pc s.cfg.memSize) := by
      rcases State.fetch_cases s with ⟨hm, -⟩ | ⟨-, he⟩
      · omega
      · rwa [Nat.max_eq_right (by omega)] at he
    simp only [step, hfault, hhalt, hf, Bool.false_eq_true, if_false]; rfl
  case fetches =>
    have hm : s.pc.toNat + 1 < s.cfg.memSize := by omega
    exact ⟨(State.canFetch_iff s).mpr ⟨hfault, hhalt, hm⟩, _, State.fetch_ok s hm⟩

/-- Settles O15: each Step moves PC on by 2, and below 65536 the sum does not wrap. -/
theorem straightRunAdvancesPc : Obligations.StraightRunAdvancesPc := by
  intro n s t hstraight h
  have hpc := core_run_pc_of_runsStraight hstraight h
  refine ⟨hpc, fun hlt => ?_⟩
  rw [hpc, BitVec.toNat_add, BitVec.toNat_ofNat, Nat.add_mod_mod, Nat.mod_eq_of_lt hlt]

end Sys2Proof.Machine
end

section
/-!
PROOFS. The sprite draw (45_display.md R222 to R231): when it completes, where it faults, and two draws of
one sprite in a row.
-/

namespace Sys2Proof.Machine

section
variable {s t : State} {x y : Reg} {n : Nibble}

/-- DRW completes when every row byte it reads is in memory, the first clipped row's among them (R226). -/
theorem exec_drw_completes
    (h : ∀ r, r < n.toNat → s.originY y + r ≤ s.cfg.dispH → s.i.toNat + r < s.cfg.memSize)
    (hy : s.originY y ≤ s.cfg.dispH) : ∃ t, exec (.drw x y n) s = .next t := by
  obtain ⟨c, hc⟩ := State.drawRows_completes s (s.originX x) (s.originY y) n.toNat 0
    ⟨s.disp, false, s.dirty⟩ fun k _ hk hrow => h k (by omega) (by omega)
  exact ⟨s.setCanvas c, by simp only [exec, execDrw, State.drawSprite, hc]⟩

theorem exec_drw_hasSize (hi : s.Inv) (h : exec (.drw x y n) s = .next t) :
    t.disp.hasSize s.cfg.dispH s.cfg.dispW = true :=
  (exec_touchesOnly h).cfg ▸ (hi.exec h).dispSize

/-! ### The same draw twice -/

/-- A draw whose origin is not in VF leaves the sprite and its origin: the next one draws the same bits
(R231). -/
theorem exec_drw_spriteBit (hx : x ≠ vf) (hy : y ≠ vf) (h : exec (.drw x y n) s = .next t) (r c : Nat) :
    t.spriteBit (t.originX x) (t.originY y) n.toNat r c =
      s.spriteBit (s.originX x) (s.originY y) n.toNat r c := by
  have ht := exec_touchesOnly h
  have hregs : ∀ z, z ≠ vf → t.getV z = s.getV z := fun z hz =>
    ht.regs z (List.mem_singleton.not.mpr hz)
  have hmem : ∀ a, t.mem.read a = s.mem.read a := fun a => ht.mem a List.not_mem_nil
  rw [Bool.eq_iff_iff]
  simp only [State.spriteBit, Bool.and_eq_true, decide_eq_true_eq]
  simp only [State.originX, State.originY, hregs x hx, hregs y hy, hmem, ht.cfg, ht.index rfl]

end

/-! ### The statements about the draw -/

/-- Settles O48: the draw completes, and flips, keeps and touches as every completed draw does. -/
theorem drawFlipsSpriteBits : Obligations.DrawFlipsSpriteBits := by
  intro s x y n hi hreads
  obtain ⟨-, -, -, -, hH, -⟩ := (Config.valid_iff s.cfg).mp hi.cfgValid
  obtain ⟨t, ht⟩ := exec_drw_completes (x := x) (y := y) (n := n) hreads (Nat.mod_lt _ hH).le
  exact ⟨t, ht, exec_drw_disp_get hi ht, exec_drw_hasSize hi ht, exec_touchesOnly ht⟩

/-- Settles O51: the rows before `r` are read in range and lie on the display. -/
theorem drawReadFaults : Obligations.DrawReadFaults := by
  intro s x y n r hr hrow hout hbefore
  have hd := State.drawRows_error s (s.originX x) (s.originY y) n.toNat 0 r ⟨s.disp, false, s.dirty⟩
    (Nat.zero_le r) (by omega) hrow hout fun j _ hj => hbefore j hj
  simp only [exec, execDrw, State.drawSprite, hd]
  rfl

/-- Settles O52: the second draw flips the same cells back, and it collides exactly where the first one
turned a cell on. -/
theorem drawTwiceRestores : Obligations.DrawTwiceRestores := by
  intro s t u x y n hi hx hy h1 h2
  have ht : t.Inv := hi.exec h1
  have hbit := exec_drw_spriteBit hx hy h1
  refine ⟨fun r c => ?cells, ?collision⟩
  case cells => rw [exec_drw_disp_get ht h2, hbit, exec_drw_disp_get hi h1, Bool.xor_assoc, Bool.xor_self,
    Bool.xor_false]
  case collision =>
    rw [exec_drw_vf_eq_one_iff ht h2]
    refine exists_congr fun r => exists_congr fun c => ?_
    rw [hbit, exec_drw_disp_get hi h1]
    cases s.disp.get r c <;> simp

end Sys2Proof.Machine
end

section
/-!
PROOFS. Control transfer and skips, instruction by instruction (41_control.md, 42_skip.md,
46_timers_input.md R254 to R256): the value each one gives PC. What they leave unchanged is
`exec_touchesOnly`.
-/

namespace Sys2Proof.Machine

/-! ### Operands in numbers -/

@[simp] theorem zext12_toNat (nnn : Addr12) : (zext12 nnn).toNat = nnn.toNat :=
  BitVec.toNat_setWidth_of_le (by decide)

@[simp] theorem zext8_toNat (b : Byte) : (zext8 b).toNat = b.toNat :=
  BitVec.toNat_setWidth_of_le (by decide)

@[simp] theorem lowNibble_toNat (b : Byte) : (lowNibble b).toNat = b.toNat % 16 := by
  rw [lowNibble, BitVec.extractLsb'_toNat, Nat.shiftRight_zero]

/-- The X field of an address, in numbers (R81). -/
theorem addr_x_eq (nnn : Addr12) : nnn.extractLsb' 8 4 = BitVec.ofNat 4 (nnn.toNat / 256) := by
  apply BitVec.eq_of_toNat_eq
  rw [BitVec.extractLsb'_toNat, BitVec.toNat_ofNat, Nat.shiftRight_eq_div_pow]

/-- The word of SYS is its twelve bits (R130). -/
theorem wordNNN_zero (nnn : Addr12) : wordNNN 0x0#4 nnn = BitVec.ofNat 16 nnn.toNat := by
  have hlt : nnn.toNat < 2 ^ 16 := Nat.lt_trans nnn.isLt (by decide)
  apply BitVec.eq_of_toNat_eq
  calc (wordNNN 0x0#4 nnn).toNat
      = (0x0#4).toNat <<< 12 ||| nnn.toNat := BitVec.toNat_append 0x0#4 nnn
    _ = nnn.toNat := Nat.zero_or _
    _ = (BitVec.ofNat 16 nnn.toNat).toNat := (Nat.mod_eq_of_lt hlt).symm

/-- R255: the key that a register names is held when its bit of Keys is 1. -/
theorem State.keyHeld_iff (s : State) (b : Byte) :
    s.keyHeld b = true ↔ s.draws.keys.toNat / 2 ^ (b.toNat % 16) % 2 = 1 := by
  rw [State.keyHeld, BitVec.getLsbD, lowNibble_toNat, Nat.testBit_eq_decide_div_mod_eq, decide_eq_true_iff]

theorem State.skipWhen_pc (s : State) (c : Bool) :
    (s.skipWhen c).pc = if c then s.pc + 2#16 else s.pc := by
  rw [State.skipWhen_eq]

/-! ### Jumps, calls and returns -/

/-- Settles O26: PC is the address, and beyond the end marker the next Step is a halted one. -/
theorem jumpSetsPc : Obligations.JumpSetsPc := by
  intro s nnn
  refine ⟨_, rfl, zext12_toNat nnn, exec_touchesOnly (i := .jp nnn) rfl, fun hfault hend => ?_⟩
  refine step_of_halted hfault ((State.halted_iff _).mpr (.inr ?_))
  rw [State.setPc_pc, zext12_toNat]
  exact hend

theorem exec_jpV0_pc_toNat (nnn : Addr12) (b : Byte) :
    (zext12 nnn + zext8 b).toNat = nnn.toNat + b.toNat := by
  have := nnn.isLt
  have := b.isLt
  rw [BitVec.toNat_add, zext12_toNat, zext8_toNat, Nat.mod_eq_of_lt (by omega)]

/-- Settles O27: the configuration picks the register, and the sum does not wrap. -/
theorem offsetJumpSetsPc : Obligations.OffsetJumpSetsPc := by
  intro s nnn
  refine ⟨_, rfl, fun hv0 => ?v0, fun hvx => ?vx, exec_touchesOnly (i := .jpV0 nnn) rfl⟩
  case v0 => rw [State.setPc_pc, exec_jpV0_pc_toNat, State.jumpReg, hv0]
  case vx => rw [State.setPc_pc, exec_jpV0_pc_toNat, State.jumpReg, hvx, addr_x_eq]

/-- Settles O28, by the room on the stack. -/
theorem callPushesAndJumps : Obligations.CallPushesAndJumps := by
  intro s nnn
  refine ⟨fun hroom => ?completes, fun hfull => exec_call_of_full hfull.ge⟩
  have he := exec_call_of_room (nnn := nnn) hroom
  exact ⟨_, he, rfl, zext12_toNat nnn, exec_touchesOnly he⟩

/-- Settles O29, by what is on the stack. -/
theorem returnPopsPc : Obligations.ReturnPopsPc := by
  intro s
  refine ⟨fun l w hl => ?completes, fun hnil => exec_ret_of_nil hnil⟩
  have he := exec_ret_of_append hl
  exact ⟨_, he, rfl, rfl, exec_touchesOnly he⟩

/-- Settles O30: the diagnostic carries the twelve bits as the word. -/
theorem sysEmitsDiagnostic : Obligations.SysEmitsDiagnostic :=
  fun _ nnn => ⟨_, rfl, wordNNN_zero nnn ▸ rfl, exec_touchesOnly (i := .sys nnn) rfl⟩

/-! ### Skips and the key wait -/

/-- Settles O31: SE skips on equality, SNE on its negation. -/
theorem skipsMovePc : Obligations.SkipsMovePc := by
  intro s x y nn
  refine ⟨⟨_, rfl, exec_touchesOnly (i := .seByte x nn) rfl, ?_⟩,
    ⟨_, rfl, exec_touchesOnly (i := .sneByte x nn) rfl, ?_⟩,
    ⟨_, rfl, exec_touchesOnly (i := .seReg x y) rfl, ?_⟩,
    ⟨_, rfl, exec_touchesOnly (i := .sneReg x y) rfl, ?_⟩⟩
  · simp only [State.skipWhen_pc, beq_iff_eq]
  · simp only [State.skipWhen_pc, bne_iff_ne, ne_eq, ite_not]
  · simp only [State.skipWhen_pc, beq_iff_eq]
  · simp only [State.skipWhen_pc, bne_iff_ne, ne_eq, ite_not]

/-- Settles O32: SKP skips when the key is held, SKNP when it is not. -/
theorem keySkipsMovePc : Obligations.KeySkipsMovePc := by
  intro s x
  refine ⟨⟨_, rfl, exec_touchesOnly (i := .skp x) rfl, ?_⟩, ⟨_, rfl, exec_touchesOnly (i := .sknp x) rfl, ?_⟩⟩
  · simp only [State.skipWhen_pc, State.keyHeld_iff]
  · simp only [State.skipWhen_pc, ← State.keyHeld_iff, Bool.not_eq_true', ← Bool.not_eq_true, ite_not]

/-- Settles O55, by the key event drawn for the Step. -/
theorem keyWaitRepeatsOrLoads : Obligations.KeyWaitRepeatsOrLoads := by
  intro s x
  refine ⟨_, rfl, fun hnone => ?waits, fun k hk => ?loads⟩
  case waits =>
    rw [hnone]
    exact ⟨rfl, (TouchesOnly.refl _ s).setPc rfl _⟩
  case loads =>
    rw [hk]
    exact ⟨by rw [State.getV_setV_same]; exact BitVec.toNat_setWidth_of_le (by decide),
      (TouchesOnly.refl _ s).setV (List.mem_singleton_self x) _⟩

end Sys2Proof.Machine
end

section
/-!
PROOFS. Registers, arithmetic and timers, instruction by instruction (43_alu.md, 46_timers_input.md R251 to
R253, 60_exceptions.md R285): the values each one writes. What they leave unchanged is `exec_touchesOnly`.
-/

namespace Sys2Proof.Machine

/-! ### Loads, ADD Vx, byte and RND -/

/-- Settles O33: each writes its value to Vx. -/
theorem loadsWriteOneRegister : Obligations.LoadsWriteOneRegister :=
  fun s x y nn =>
    ⟨⟨_, rfl, State.getV_setV_same s x nn, exec_touchesOnly (i := .ldByte x nn) rfl⟩,
      ⟨_, rfl, State.getV_setV_same s x _, exec_touchesOnly (i := .ldReg x y) rfl⟩⟩

/-- Settles O34: the sum of bytes is the sum modulo 256. -/
theorem addByteWritesNoCarry : Obligations.AddByteWritesNoCarry := by
  intro s x nn
  refine ⟨_, rfl, ?_, exec_touchesOnly (i := .addByte x nn) rfl⟩
  rw [State.getV_setV_same, BitVec.toNat_add]

/-- Settles O39: a mask keeps no bit outside itself. -/
theorem randomIsMasked : Obligations.RandomIsMasked := by
  intro s x nn
  refine ⟨_, rfl, State.getV_setV_same s x _, fun k hk => ?_, exec_touchesOnly (i := .rnd x nn) rfl⟩
  rw [State.getV_setV_same, BitVec.getLsbD_and, hk, Bool.and_false]

/-! ### OR, AND and XOR -/

section
variable (s : State) (x : Reg) (r : Byte)

/-- R170 to R172: VF after a logic operation is cleared when configured. -/
theorem State.getV_vf_setLogic_reset (h : s.cfg.logicResetsVF = true) : (s.setLogic x r).getV vf = 0#8 := by
  rw [State.getV_setLogic, if_pos ⟨h, rfl⟩]

theorem State.getV_vf_setLogic_keep (h : s.cfg.logicResetsVF = false) (hx : x ≠ vf) :
    (s.setLogic x r).getV vf = s.getV vf := by
  rw [State.getV_setLogic, if_neg (by simp [h]), if_neg hx.symm]

theorem State.getV_setLogic_same (h : x ≠ vf ∨ s.cfg.logicResetsVF = false) :
    (s.setLogic x r).getV x = r := by
  rw [State.getV_setLogic, if_neg ?_, if_pos rfl]
  rintro ⟨hreset, hx⟩
  rcases h with hne | hoff
  · exact hne hx
  · exact nomatch hreset.symm.trans hoff

end

/-- Settles O35: the three share `State.setLogic`, and each has its own bit. -/
theorem logicResults : Obligations.LogicResults := by
  intro s x y
  refine ⟨⟨_, rfl, exec_touchesOnly (i := .orReg x y) rfl, s.getV_vf_setLogic_reset x _,
      s.getV_vf_setLogic_keep x _, fun h k _ => ?_⟩,
    ⟨_, rfl, exec_touchesOnly (i := .andReg x y) rfl, s.getV_vf_setLogic_reset x _,
      s.getV_vf_setLogic_keep x _, fun h k _ => ?_⟩,
    ⟨_, rfl, exec_touchesOnly (i := .xorReg x y) rfl, s.getV_vf_setLogic_reset x _,
      s.getV_vf_setLogic_keep x _, fun h k _ => ?_⟩⟩
  · rw [s.getV_setLogic_same x _ h, BitVec.getLsbD_or]
  · rw [s.getV_setLogic_same x _ h, BitVec.getLsbD_and]
  · rw [s.getV_setLogic_same x _ h, BitVec.getLsbD_xor]

/-! ### Operations with a flag -/

section
variable (s : State) {x : Reg} (r : Byte) (f : Bool)

/-- R166: the flag is written last, so VF holds it. -/
theorem State.getV_vf_setResultFlag : (s.setResultFlag x r f).getV vf = flagByte f := by
  rw [State.getV_setResultFlag, if_pos rfl]

theorem State.getV_setResultFlag_same (hx : x ≠ vf) : (s.setResultFlag x r f).getV x = r := by
  rw [State.getV_setResultFlag, if_neg hx, if_pos rfl]

end

/-- The carry as the number VF holds (R173). -/
theorem carryFlag_toNat (a b : Byte) :
    (flagByte (carryFlag a b)).toNat = if 255 < a.toNat + b.toNat then 1 else 0 := by
  simp only [flagByte_toNat, carryFlag, decide_eq_true_eq]

/-- The not-borrow as the number VF holds (R174, R176). -/
theorem notBorrow_toNat (a b : Byte) :
    (flagByte (notBorrow a b)).toNat = if b.toNat ≤ a.toNat then 1 else 0 := by
  simp only [flagByte_toNat, notBorrow, decide_eq_true_eq]

/-- The bit SHR shifts out is the remainder of halving (R175). -/
theorem shrFlag_toNat (b : Byte) : (flagByte (shrFlag b)).toNat = b.toNat % 2 := by
  rw [flagByte_toNat, shrFlag, BitVec.getLsbD, Nat.testBit_zero]
  simp only [decide_eq_true_eq]
  split <;> omega

/-- The bit SHL shifts out is the carry of doubling (R177). -/
theorem shlFlag_toNat (b : Byte) : (flagByte (shlFlag b)).toNat = b.toNat / 128 := by
  have hlt := b.isLt
  rw [flagByte_toNat, shlFlag, BitVec.getLsbD, Nat.testBit_eq_decide_div_mod_eq]
  simp only [decide_eq_true_eq]
  split <;> omega

theorem byte_sub_toNat (a b : Byte) : (a - b).toNat = (a.toNat + 256 - b.toNat) % 256 := by
  have := a.isLt
  have := b.isLt
  rw [BitVec.toNat_sub]
  congr 1
  omega

/-- Settles O36: the sum of bytes is the sum modulo 256, and the carry says what was lost. -/
theorem addSetsCarry : Obligations.AddSetsCarry := by
  intro s x y
  refine ⟨_, rfl, fun hx => ?sum, ?carry, exec_touchesOnly (i := .addReg x y) rfl⟩
  case sum => rw [State.getV_setResultFlag_same s _ _ hx, BitVec.toNat_add]
  case carry => rw [State.getV_vf_setResultFlag, carryFlag_toNat]

/-- Settles O37: SUBN is SUB with its operands exchanged. -/
theorem subtractionsSetNotBorrow : Obligations.SubtractionsSetNotBorrow := by
  intro s x y
  refine ⟨⟨_, rfl, fun hx => ?sub, ?subBorrow, exec_touchesOnly (i := .subReg x y) rfl⟩,
    ⟨_, rfl, fun hx => ?subn, ?subnBorrow, exec_touchesOnly (i := .subn x y) rfl⟩⟩
  case sub | subn => rw [State.getV_setResultFlag_same s _ _ hx, byte_sub_toNat]
  case subBorrow | subnBorrow => rw [State.getV_vf_setResultFlag, notBorrow_toNat]

/-- R175, R177: the register the shifts read, by `SHIFT_SRC`. -/
theorem State.shiftOperand_eq {s : State} {x y z : Reg} (hy : s.cfg.shiftSrc = .vy → z = y)
    (hx : s.cfg.shiftSrc = .vx → z = x) : s.shiftOperand x y = s.getV z := by
  unfold State.shiftOperand
  split
  · rename_i h; rw [hy h]
  · rename_i h; rw [hx h]

/-- Settles O38: a shift by one halves or doubles the operand, and the flag is the bit that leaves. -/
theorem shiftsSetShiftedOutBit : Obligations.ShiftsSetShiftedOutBit := by
  intro s x y z hy hx
  have hz := State.shiftOperand_eq hy hx
  refine ⟨⟨_, rfl, fun hne => ?shr, ?shrBit, exec_touchesOnly (i := .shr x y) rfl⟩,
    ⟨_, rfl, fun hne => ?shl, ?shlBit, exec_touchesOnly (i := .shl x y) rfl⟩⟩
  case shr =>
    rw [State.getV_setResultFlag_same s _ _ hne, hz, BitVec.toNat_ushiftRight, Nat.shiftRight_one]
  case shrBit => rw [State.getV_vf_setResultFlag, hz, shrFlag_toNat]
  case shl =>
    rw [State.getV_setResultFlag_same s _ _ hne, hz, BitVec.toNat_shiftLeft, Nat.shiftLeft_eq]
  case shlBit => rw [State.getV_vf_setResultFlag, hz, shlFlag_toNat]

/-! ### Timers -/

/-- Settles O54: each moves its byte. -/
theorem timerMoves : Obligations.TimerMoves :=
  fun s x =>
    ⟨⟨_, rfl, State.getV_setV_same s x s.dt, exec_touchesOnly (i := .ldVxDt x) rfl⟩,
      ⟨_, rfl, rfl, exec_touchesOnly (i := .ldDtVx x) rfl⟩,
      ⟨_, rfl, rfl, exec_touchesOnly (i := .ldStVx x) rfl⟩⟩

/-- R285: one timer's Tick is subtraction that stops at zero. -/
theorem tickTimer_toNat (b : Byte) : (tickTimer b).toNat = b.toNat - 1 := by
  unfold tickTimer
  split
  · rename_i h; subst h; rfl
  · bv_omega

/-- Settles O56, timer by timer. -/
theorem tickDecrementsTimers : Obligations.TickDecrementsTimers :=
  fun s => ⟨rfl, tickTimer_toNat s.dt, tickTimer_toNat s.st,
    ((TouchesOnly.refl _ s).setDt rfl _).setSt rfl _⟩

end Sys2Proof.Machine
end

section
/-!
PROOFS. Memory, the index register, CLS and Load, operation by operation (20_memory.md R56, R57,
44_index_memory.md, 45_display.md R221, 70_reset_and_hazards.md R305, R306).
-/

namespace Sys2Proof.Machine

/-- Settles O41: the check decides, and the fault names the address as it is. -/
theorem accessesAreBoundsChecked : Obligations.AccessesAreBoundsChecked :=
  fun s kind _ b =>
    ⟨fun h => ⟨State.readByte_ok s kind h, _, State.writeByte_ok s h b⟩,
      fun h => ⟨State.readByte_error s kind h, State.writeByte_error s h b⟩⟩

/-! ### The index register -/

/-- Settles O42. -/
theorem loadIndexSetsI : Obligations.LoadIndexSetsI :=
  fun _ nnn => ⟨_, rfl, zext12_toNat nnn, exec_touchesOnly (i := .ldI nnn) rfl⟩

/-- Settles O43: both results are sums modulo 65536. -/
theorem indexArithmetic : Obligations.IndexArithmetic := by
  intro s x
  refine ⟨⟨_, rfl, ?addI, exec_touchesOnly (i := .addI x) rfl⟩,
    ⟨_, rfl, ?ldF, exec_touchesOnly (i := .ldF x) rfl⟩⟩
  case addI => rw [State.setI_i, BitVec.toNat_add, zext8_toNat]
  case ldF => rw [State.setI_i, State.glyphAddr, BitVec.toNat_ofNat, lowNibble_toNat]

/-- I after a block transfer (R206, R207). -/
theorem State.advanceI_i_toNat (s : State) (x : Reg) :
    (s.advanceI x).i.toNat =
      if s.cfg.ldiIncrementsI then (s.i.toNat + x.toNat + 1) % 65536 else s.i.toNat := by
  rw [State.advanceI_eq]
  split
  · rw [BitVec.toNat_add, BitVec.toNat_ofNat, Nat.add_mod_mod, Nat.add_assoc]
  · rfl

/-! ### Transfers between registers and memory -/

/-- The digits in numbers, hundreds first (R204). -/
theorem bcdDigits_toNat (b : Byte) :
    ((bcdDigits b).getD 0 0).toNat = b.toNat / 100 ∧
    ((bcdDigits b).getD 1 0).toNat = b.toNat / 10 % 10 ∧
    ((bcdDigits b).getD 2 0).toNat = b.toNat % 10 := by
  have := b.isLt
  exact ⟨Nat.mod_eq_of_lt (by omega), Nat.mod_eq_of_lt (by omega), Nat.mod_eq_of_lt (by omega)⟩

/-- Settles O44, by whether the last of the three addresses is in memory. -/
theorem bcdStoresDigits : Obligations.BcdStoresDigits := by
  intro s x hwf
  refine ⟨fun hm => ?completes, fun hm => exec_ldB_of_le hm⟩
  have he := exec_ldB_of_lt (x := x) hm
  have hread : ∀ k, k < 3 → (s.mem.writeAll s.i.toNat (bcdDigits (s.getV x))).read (s.i.toNat + k) =
      (bcdDigits (s.getV x)).getD k 0 := fun k hk => Memory.read_writeAll_in hwf hk
  obtain ⟨hundreds, tens, ones⟩ := bcdDigits_toNat (s.getV x)
  exact ⟨_, he, (congrArg BitVec.toNat (hread 0 (by decide))).trans hundreds,
    (congrArg BitVec.toNat (hread 1 (by decide))).trans tens,
    (congrArg BitVec.toNat (hread 2 (by decide))).trans ones, exec_touchesOnly he⟩

/-- Settles O45, by whether the last address of the block is in memory. -/
theorem storeRegistersWritesBlock : Obligations.StoreRegistersWritesBlock := by
  intro s x hwf
  refine ⟨fun hm => ?completes, fun hm => exec_storeRegs_of_le hm⟩
  have he := exec_storeRegs_of_lt (x := x) hm
  refine ⟨_, he, fun k hk => ?block, State.advanceI_i_toNat _ x, exec_touchesOnly he⟩
  case block =>
    have hlen : k.toNat < (s.blockV x).length := by
      rw [State.length_blockV]
      exact Nat.lt_succ_of_le hk
    rw [State.advanceI_eq]
    exact (Memory.read_writeAll_in hwf hlen).trans (s.getD_blockV hk 0)

/-- Settles O46, by whether the last address of the block is in memory. -/
theorem loadRegistersReadsBlock : Obligations.LoadRegistersReadsBlock := by
  intro s x
  refine ⟨fun hm => ?completes, fun hm => exec_loadRegs_of_le hm⟩
  obtain ⟨v, he, hget⟩ := exec_loadRegs_of_lt (x := x) hm
  refine ⟨_, he, fun k => ?regs, State.advanceI_i_toNat _ x, exec_touchesOnly he⟩
  case regs =>
    rw [State.advanceI_eq]
    exact hget k

/-! ### CLS -/

/-- Settles O47: the display is replaced by a blank one of its configured size. -/
theorem clearEmptiesDisplay : Obligations.ClearEmptiesDisplay :=
  fun _ => ⟨_, rfl, Grid.get_blank _ _, Grid.hasSize_blank _ _, rfl, exec_touchesOnly (i := .cls) rfl⟩

/-! ### Load -/

/-- Settles O58: an answer of failure comes from the failing branch. -/
theorem failedLoadChangesNothing : Obligations.FailedLoadChangesNothing := by
  intro s im e h
  cases hl : s.load im with
  | ok t => rw [transact, hl] at h; cases h
  | error e' => rw [transact_load_error hl]

/-- Settles O59: the image lands at PROGRAM_START, and the rest is as the update writes it. -/
theorem loadSuccess : Obligations.LoadSuccess := by
  intro s l hwf hfit
  have hload : s.load (.bytes l) = .ok _ := if_pos hfit
  refine ⟨_, by rw [transact, hload], fun k hk => ?_, fun a ha => ?_, rfl, rfl, rfl⟩
  · exact Memory.read_writeAll_in hwf hk
  · exact Memory.read_writeAll_out hwf ha

end Sys2Proof.Machine
end
